-- ==== Sys2Proof/Word.lean ====
section
/-! DEFINITION. The words of the block: bytes, event words, frame words (spec/00_scope.md R10, R11; spec/30_encoding.md R70). -/

namespace Sys2Proof

/-- A byte (octet); bit 7 is its most significant bit (R10). -/
abbrev Byte := BitVec 8

/-- The input event word `E[11:0]` of format `EV` (R71). -/
abbrev EventWord := BitVec 12

/-- A frame written as one vector `F[71:0]`, offset 0 in the most significant byte (R11, R74). -/
abbrev FrameWord := BitVec 72

end Sys2Proof
end

