-- ==== Sys2Proof/Config.lean ====
section
/-! DEFINITION. What is fixed for the block: the constants of spec/00_scope.md R6, the parameters of R7, and the free values of the ports. -/

namespace Sys2Proof

/-- How wide the warm-up counter is. The block's own is `Config.countWidth`; other widths and the unbounded counter of
the source document exist so that the width independence of spec/43_stabilizer.md R158 can be stated. -/
inductive CounterWidth where
  /-- a counter of `w` bits that saturates at `2^w - 1` (R154) -/
  | bits (w : Nat)
  /-- the source document's unbounded integer -/
  | unbounded
deriving DecidableEq, Repr

/-- Digit case of a rendered diagnostic: the one open parameter, `HEX_CASE` (R7, R87). -/
inductive HexCase where
  | upper
  | lower
deriving DecidableEq, Repr

/-- `FRAME_LEN`: bytes in a frame (R6). -/
abbrev Config.frameLen : Nat := 9

/-- `START_MARKER`: value of frame offset 0 (R6). -/
abbrev Config.startMarker : Byte := 0xFF#8

/-- `CMD_READ_CO2`: the one decoded command (R6). -/
abbrev Config.cmdReadCo2 : Byte := 0x86#8

/-- `WARMUP_THRESHOLD`: the count at and above which measurements are surfaced (R6, R29). -/
abbrev Config.warmupThreshold : Nat := 20

/-- `TEMP_BIAS` (R6). -/
abbrev Config.tempBias : Int := 40

/-- `COUNT_WIDTH = 8` (R7, decision D9). -/
abbrev Config.countWidth : CounterWidth := .bits 8

/-- `POLL_REQUEST`: the literal the external driver sends (R6, R80, R205). A fact about the environment. -/
abbrev Config.pollRequest : List Byte :=
  [0xFF#8, 0x01#8, 0x86#8, 0x00#8, 0x00#8, 0x00#8, 0x00#8, 0x00#8, 0x79#8]

/-- `POLL_PERIOD` in seconds (R6, R205). A fact about the environment; nothing in the block reads it. -/
abbrev Config.pollPeriodSeconds : Nat := 5

/-- FREE VALUE (log entry 16): what the port `report_ppm` shows in a cycle with `report_valid = 0` (R88, U14). -/
opaque Config.idleReportPpm : Nat → BitVec 16

/-- FREE VALUE (log entry 16): what the port `report_temp` shows in a cycle with `report_valid = 0` (R88, U14). -/
opaque Config.idleReportTemp : Nat → BitVec 9

/-- FREE VALUE (log entry 16): what the port `csum_expected` shows in a cycle with `csum_err = 0` (R88, U14). -/
opaque Config.idleCsumExpected : Nat → Byte

/-- FREE VALUE (log entry 16): what the port `csum_actual` shows in a cycle with `csum_err = 0` (R88, U14). -/
opaque Config.idleCsumActual : Nat → Byte

/-- FREE VALUE (log entry 16): what the port `tr_frame` shows when `tr_kind` is not 1, 2, 3 or 7, or the
completed value is no frame of nine bytes (R88, D27). -/
opaque Config.idleTrFrame : Nat → FrameWord

/-- FREE VALUE (log entry 16): what the port `tr_byte` shows when `tr_kind` is not 3 or 4 (R88, D27). -/
opaque Config.idleTrByte : Nat → Byte

end Sys2Proof
end

