-- ==== Sys2Proof/Syntax.lean ====
section
/-! DEFINITION. The operations of the block, one constructor per row of spec/opcode_table.json (spec/30_encoding.md R86), the layout of a frame (R73) and the two kinds of code the block reads. -/

namespace Sys2Proof

/-- The operations. Five are selected by the input event word (R72); two frame classes are selected by the command byte
inside a completing `RXBYTE` (R75); the last is the request literal of the environment (R80). -/
inductive Instr where
  /-- RST: hardware reset (R173). -/
  | rst
  /-- LINKDOWN: the connection has been lost (R171). -/
  | linkdown
  /-- LINKUP: a connection has been established (R170). -/
  | linkup
  /-- RXBYTE b: one received octet (R100). -/
  | rxbyte (b : Byte)
  /-- NOP: no input in this step (R172). -/
  | nop
  /-- READ_CO2: a frame with command `0x86` (R137), field by field as R59 and R73 lay it out: offsets 2 and 3, offset 4,
  offsets 5 and 6, offset 7, offset 8. -/
  | readCo2 (ppmHi ppmLo tempRaw rsv16Hi rsv16Lo rsv8 cks : Byte)
  /-- UNKNOWN_CMD: a frame with any other command (R138): offset 1, offsets 2 to 7, offset 8. -/
  | unknownCmd (cmd d0 d1 d2 d3 d4 d5 cks : Byte)
  /-- POLL_READ_CO2: the request literal, which has no fields (R80, R205). -/
  | pollReadCo2
deriving DecidableEq, Repr

/-- A 9-byte frame, field by field (format `RSP`, R73). -/
structure Frame where
  start : Byte
  cmd : Byte
  d0 : Byte
  d1 : Byte
  d2 : Byte
  d3 : Byte
  d4 : Byte
  d5 : Byte
  cks : Byte
deriving DecidableEq, Repr

/-- What is presented to be decoded: an event word (R71), or the bytes of a frame, offset 0 first (R52, R73). -/
inductive Code where
  | event (E : EventWord)
  | frame (bytes : List Byte)
deriving DecidableEq, Repr

end Sys2Proof
end

