-- ==== Sys2Proof/WellFormed.lean ====
section
/-! DEFINITION. Which operation terms are the reading of some word of spec/opcode_table.json. -/

namespace Sys2Proof

/-- The operand values each row of the table admits. Every byte is an operand of RXBYTE and of READ_CO2 (R78: the
reserved fields hold any value). UNKNOWN_CMD is taken only where READ_CO2 does not match (R75), and the request literal
has its own row (R80; log entry 10). Whether the checksum byte is right is no part of the encoding: it is the first
stage of execution (R136; log entry 11). -/
def Instr.wellFormed : Instr → Bool
  | .rst => true
  | .linkdown => true
  | .linkup => true
  | .rxbyte _ => true
  | .nop => true
  | .readCo2 _ _ _ _ _ _ _ => true
  | .unknownCmd cmd d0 d1 d2 d3 d4 d5 cks =>
    cmd != Config.cmdReadCo2 &&
      [Config.startMarker, cmd, d0, d1, d2, d3, d4, d5, cks] != Config.pollRequest
  | .pollReadCo2 => true

end Sys2Proof
end

