-- ==== Sys2Proof/Decode.lean ====
section
/-! DEFINITION. Decoding, total and rejecting by name, and the encoder after it (spec/30_encoding.md R70 to R75, R80). -/

namespace Sys2Proof

/-! ### Frames -/

/-- The nine bytes of a frame in the order they are received (R52). -/
def frameBytes (f : Frame) : List Byte :=
  [f.start, f.cmd, f.d0, f.d1, f.d2, f.d3, f.d4, f.d5, f.cks]

/-- A byte sequence read as a frame: only a sequence of length 9 is one (R73, R83). -/
def frameOfBytes? : List Byte → Option Frame
  | [a, b, c, d, e, f, g, h, k] => some ⟨a, b, c, d, e, f, g, h, k⟩
  | _ => none

/-- The byte at offset `k` of a frame vector: `F[71-8k : 64-8k]` (R11, R74). -/
def frameWordByte (F : FrameWord) (k : Nat) : Byte := F.extractLsb' (64 - 8 * k) 8

/-- The nine bytes of a frame vector, offset 0 first (R74). -/
def bytesOfFrameWord (F : FrameWord) : List Byte := (List.range 9).map (frameWordByte F)

/-- The frame vector of a byte sequence, first byte most significant (R74). -/
def natOfBytes (bytes : List Byte) : Nat := bytes.foldl (fun acc b => 256 * acc + b.toNat) 0

/-! ### Decoding -/

/-- Why a code names no operation. -/
inductive DecodeError where
  /-- the sequence is not 9 bytes long (R83) -/
  | wrongLength
  /-- the sequence does not begin with the start marker (R75) -/
  | noStartMarker
deriving DecidableEq, Repr

/-- Decoding of the event word: total, by fixed priority, the highest set bit of `E[11:8]` decides and all lower bits
are ignored (R72). -/
def decodeEvent (E : EventWord) : Instr :=
  if E &&& 0x800#12 = 0x800#12 then .rst
  else if E &&& 0xC00#12 = 0x400#12 then .linkdown
  else if E &&& 0xE00#12 = 0x200#12 then .linkup
  else if E &&& 0xF00#12 = 0x100#12 then .rxbyte (E.extractLsb' 0 8)
  else .nop

/-- The row a frame's bytes match (R75, R80): the request literal first, as the most specific row, then the command. -/
def classifyFrame (f : Frame) : Except DecodeError Instr :=
  if f.start ≠ Config.startMarker then .error .noStartMarker
  else if frameBytes f = Config.pollRequest then .ok .pollReadCo2
  else if f.cmd = Config.cmdReadCo2 then .ok (.readCo2 f.d0 f.d1 f.d2 f.d3 f.d4 f.d5 f.cks)
  else .ok (.unknownCmd f.cmd f.d0 f.d1 f.d2 f.d3 f.d4 f.d5 f.cks)

/-- The decoder, total on every code. -/
def decode : Code → Except DecodeError Instr
  | .event E => .ok (decodeEvent E)
  | .frame bytes =>
    match frameOfBytes? bytes with
    | none => .error .wrongLength
    | some f => classifyFrame f

/-! ### Encoding -/

/-- The words of an operation: the canonical event word, every ignored bit zero (R72), or the nine bytes of the frame
(R73, R80). -/
def encode : Instr → Code
  | .rst => .event 0x800#12
  | .linkdown => .event 0x400#12
  | .linkup => .event 0x200#12
  | .rxbyte b => .event (0x1#4 ++ b)
  | .nop => .event 0x000#12
  | .readCo2 hi lo tt rh rl r8 k => .frame [Config.startMarker, Config.cmdReadCo2, hi, lo, tt, rh, rl, r8, k]
  | .unknownCmd c d0 d1 d2 d3 d4 d5 k => .frame [Config.startMarker, c, d0, d1, d2, d3, d4, d5, k]
  | .pollReadCo2 => .frame Config.pollRequest

/-- How many bits spec/opcode_table.json gives the code, in whole bytes: 12 bits stand in two bytes, a frame in nine. -/
def tableBits : Code → Nat
  | .event _ => 16
  | .frame _ => 72

/-- The code as the number the table writes it as: the event word itself, or the frame vector `F` (R71, R74). -/
def tableWord : Code → Nat
  | .event E => E.toNat
  | .frame bytes => natOfBytes bytes

/-- The `mask` of the operation's row in spec/opcode_table.json (R72, R75, R80). -/
def tableMask : Instr → Nat
  | .rst => 0x800
  | .linkdown => 0xC00
  | .linkup => 0xE00
  | .rxbyte _ => 0xF00
  | .nop => 0xF00
  | .readCo2 _ _ _ _ _ _ _ => 0xFFFF00000000000000
  | .unknownCmd _ _ _ _ _ _ _ _ => 0xFF0000000000000000
  | .pollReadCo2 => 0xFFFFFFFFFFFFFFFFFF

/-- The `match` of the operation's row in spec/opcode_table.json (R72, R75, R80). -/
def tableMatch : Instr → Nat
  | .rst => 0x800
  | .linkdown => 0x400
  | .linkup => 0x200
  | .rxbyte _ => 0x100
  | .nop => 0x000
  | .readCo2 _ _ _ _ _ _ _ => 0xFF8600000000000000
  | .unknownCmd _ _ _ _ _ _ _ _ => 0xFF0000000000000000
  | .pollReadCo2 => 0xFF0186000000000079

/-- The code that `nbits` bits of the table with the value `w` stand for: 12 bits (two bytes) are an event word, whose
bits above 11 do not exist; 72 bits are a frame vector, its bytes in the order received. -/
def codeOfTableWord (nbits w : Nat) : Option Code :=
  if nbits = 12 ∨ nbits = 16 then
    if w < 2 ^ 12 then some (.event (BitVec.ofNat 12 w)) else none
  else if nbits = 72 then
    if w < 2 ^ 72 then some (.frame (bytesOfFrameWord (BitVec.ofNat 72 w))) else none
  else none

/-- What the decoder reads from a word of the table. -/
def decodeTableWord (nbits w : Nat) : Option Instr :=
  match codeOfTableWord nbits w with
  | none => none
  | some c => (decode c).toOption

end Sys2Proof
end

