-- ==== Sys2Proof/Machine/State.lean ====
section
/-! DEFINITION. The state of the block (spec/10_state.md R20), its output records (spec/30_encoding.md R81), and its value at reset (R35). -/

namespace Sys2Proof.Machine

/-- The frame buffer, ByteBuffer: the pending bytes of the frame being assembled, offset 0 first (R21). A sequence, as
R23 asks: cells at and above its length are not state and are not represented (log entry 6). -/
abbrev Memory := List Byte

/-- A decoded measurement (R30): `ppm` in 0 to 65535, `temperatureCelsius` in -40 to 215. -/
structure Measurement where
  ppm : Nat
  temperatureCelsius : Int
deriving DecidableEq, Repr

/-- The three output channels of a step (R81). -/
inductive Channel where
  /-- the external consumers -/
  | ext
  /-- the diagnostic log -/
  | diag
  /-- internal observation -/
  | trace
deriving DecidableEq, Repr

/-- The output records of format `OUT` (R81). -/
inductive Out where
  /-- `ext.Report` (R151) -/
  | report (ppm : Nat) (temperatureCelsius : Int)
  /-- `diag.ChecksumMismatch` (R123) -/
  | checksumMismatch (expected actual : Byte)
  /-- `trace.FrameDone` (R104) -/
  | frameDone (frame : List Byte)
  /-- `trace.Decoded`, with the count after the increment (R150) -/
  | decoded (ppm : Nat) (temperatureCelsius : Int) (count : Nat)
  /-- `trace.Ignored` (R138) -/
  | ignored (cmd : Byte)
  /-- `trace.Discarded` (R101) -/
  | discarded (b : Byte)
  /-- `trace.LinkUp` (R170) -/
  | linkUp
  /-- `trace.LinkLost` (R171) -/
  | linkLost
  /-- `trace.Fault`, with the exception code (R135) -/
  | fault (code : Nat)
deriving DecidableEq, Repr

/-- The five exceptional conditions and what each records (spec/60_exceptions.md R190). -/
inductive Condition where
  | checksumMismatch (expected actual : Byte)
  | unknownCommand (cmd : Byte)
  | streamDesync (b : Byte)
  | connectionLost
  | assemblerInvariantViolation
deriving DecidableEq, Repr

/-- The result of validating a frame: "`Valid(Frame) | Invalid{expected, actual}`" (R122). -/
inductive Verdict where
  | valid (f : Frame)
  | invalid (expected actual : Byte)
deriving DecidableEq, Repr

/-- The document's modes of operation (R32, R202). -/
inductive Mode where
  | disconnected
  | ready
  | reporting
  | faulted
deriving DecidableEq, Repr

/-- The state. The first four fields, with `len` read off `buf`, are the spec's five (R20); the last two carry the
spec's input and output of a step, which the host's `step : State → Outcome` has no other place for. -/
structure State where
  /-- 1 while a connection exists (R20, R31) -/
  connected : Bool
  /-- the bytes of the frame being assembled (R20, R21) -/
  buf : Memory
  /-- the warm-up counter `measurementCount` (R20, R27) -/
  count : Nat
  /-- sticky: an assembler-invariant violation reached the decoder (R20, R31, R135) -/
  fault : Bool
  /-- the model's own: the event words presented and not yet taken, next first (log entry 1) -/
  inbox : List EventWord
  /-- the model's own: the output records of the most recent step, in order (log entry 2) -/
  out : List Out
deriving DecidableEq, Repr

/-- The spec's field `len`: the number of bytes in `buf`, the frame position of the next byte (R20, R26). "Redundant with
`buf` when `buf` is modelled as a sequence": stored once and read off (log entry 5). -/
abbrev State.len (s : State) : Nat := s.buf.length

/-- Reasons a step stops with a fault: none. The block has no event at which it stops: `Step` is total (R175), nothing it
can receive traps (R82), and the one fatal condition, AssemblerInvariantViolation, has a stated effect, the sticky flag
`fault` of the next state (R135, R195; log entry 8). Safe: the type says that no step can end here. -/
inductive Fault where
deriving DecidableEq, Repr

/-- Reasons a step has no meaning. -/
inductive Refusal where
  /-- Raised by `exec` for an operation that has no meaning yet; no arm raises it now. Safe: the model stops where the
  hardware goes on. -/
  | notModelled (mnemonic : String)
deriving DecidableEq, Repr

/-- What a meaning answers. -/
abbrev Result := Host.Outcome State Fault Refusal

/-- The block right after RST (R35, R230): Disconnected, buffer empty, `count = 0`, `fault = 0`, no output; nothing has
been presented yet (log entry 1). -/
def State.reset : State where
  connected := false
  buf := []
  count := 0
  fault := false
  inbox := []
  out := []

end Sys2Proof.Machine
end

