-- ==== Sys2Proof/Machine/Operands.lean ====
section
/-! DEFINITION. Operand assembly: the fields of a frame as values (spec/30_encoding.md R76 to R79, spec/20_memory.md R52). -/

namespace Sys2Proof.Machine

/-- `be16(h, l) = 256*h + l` (R12, R52). -/
def be16 (h l : Byte) : Nat := 256 * h.toNat + l.toNat

/-- The concentration: offsets 2 and 3, big-endian, unsigned, not scaled and not clamped (R76, R139). -/
def ppmOf (f : Frame) : Nat := be16 f.d0 f.d1

/-- The temperature: offset 4 read unsigned, minus 40, exact and never modulo 256 (R77). -/
def temperatureOf (f : Frame) : Int := (f.d2.toNat : Int) - Config.tempBias

/-- The measurement a frame of command `0x86` carries (R137). -/
def measurementOf (f : Frame) : Measurement := ⟨ppmOf f, temperatureOf f⟩

/-- The reserved 16-bit field of a `0x86` reply, offsets 5 and 6 (R52, R78). Nothing in the block interprets it. -/
def reserved16Of (f : Frame) : Nat := be16 f.d3 f.d4

/-- The reserved 8-bit field of a `0x86` reply, offset 7 (R78). Nothing in the block interprets it. -/
def reserved8Of (f : Frame) : Byte := f.d5

end Sys2Proof.Machine
end

