-- ==== Sys2Proof/Machine/Checksum.lean ====
section
/-! DEFINITION. The checksum validator (spec/41_checksum_validator.md). -/

namespace Sys2Proof.Machine

/-- The sum of offsets 1 to 7 modulo 256; the start byte is not summed and carries are discarded (R120, conflict C10). -/
def checksumSum (f : Frame) : Nat :=
  (f.cmd.toNat + f.d0.toNat + f.d1.toNat + f.d2.toNat + f.d3.toNat + f.d4.toNat + f.d5.toNat) % 256

/-- `Checksum(f) = (0xFF - sum + 1) mod 256` (R120). -/
def checksum (f : Frame) : Byte := BitVec.ofNat 8 ((0xFF - checksumSum f + 1) % 256)

/-- `Validate(frame)`: the computed checksum is `expected`, the received byte at offset 8 is `actual` (R122, decision D12). -/
def validate (f : Frame) : Verdict :=
  if checksum f = f.cks then .valid f else .invalid (checksum f) f.cks

end Sys2Proof.Machine
end

