-- ==== Sys2Proof/Machine/Flags.lean ====
section
/-! DEFINITION. The derived flag and the modes (spec/10_state.md R31, R32; spec/60_exceptions.md R202), and the start test (spec/40_frame_assembler.md R105). There are no condition codes (R31). -/

namespace Sys2Proof.Machine

/-- The derived flag `ready = (connected = 1) and (count >= WARMUP_THRESHOLD)` (R31). -/
def ready (s : State) : Bool := s.connected && decide (Config.warmupThreshold ≤ s.count)

/-- The mode the fields stand for (R32, R202). `Connecting` is not told apart from Disconnected (decision D4). -/
def modeOf (s : State) : Mode :=
  if s.fault then .faulted
  else if !s.connected then .disconnected
  else if s.count < Config.warmupThreshold then .ready
  else .reporting

/-- `IsFrameStart(len, b)`: the one named policy function; false for every `len >= 1` (R105, `MIDFRAME_RESYNC = false`). -/
def isFrameStart (len : Nat) (b : Byte) : Bool := len == 0 && b == Config.startMarker

end Sys2Proof.Machine
end

