-- ==== Sys2Proof/Machine/Ops.lean ====
section
/-! DEFINITION. The named operations over the state: the buffer, the output channels, the counter, the exceptional conditions, and the guard of a faulted block. -/

namespace Sys2Proof.Machine

/-! ### The frame buffer (R21 to R25, R56) -/

/-- The buffer is in order: at most 8 bytes between steps (R22), and its first byte, if any, is the start marker (R24). -/
def Memory.wf (m : Memory) : Bool :=
  decide (m.length ≤ 8) && (m.head?.all (· == Config.startMarker))

/-- The one store: `MemWrite(len, 1, [b])` and `len <- len + 1` (R56). -/
def Memory.append (m : Memory) (b : Byte) : Memory := m ++ [b]

/-- The empty buffer: `buf <- []`, `len <- 0`; no cell has to be zeroed (R23, R25). -/
def Memory.cleared : Memory := []

/-- `MemRead(addr, n)`: defined only inside the bytes held (R13). -/
def Memory.read (m : Memory) (addr n : Nat) : Option (List Byte) :=
  if addr + n ≤ m.length then some ((m.drop addr).take n) else none

/-- The read of one cell: none at and above `len`, where no value exists (R13, R23). -/
def Memory.readByte (m : Memory) (addr : Nat) : Option Byte := m[addr]?

/-! ### The output channels (R81) -/

/-- The channel of a record (R81). -/
def channelOf : Out → Channel
  | .report _ _ => .ext
  | .checksumMismatch _ _ => .diag
  | .frameDone _ => .trace
  | .decoded _ _ _ => .trace
  | .ignored _ => .trace
  | .discarded _ => .trace
  | .linkUp => .trace
  | .linkLost => .trace
  | .fault _ => .trace

/-- `emit`: append a record to this step's output (R13). -/
def emit (o : Out) (s : State) : State := { s with out := s.out ++ [o] }

/-! ### The counter (R150, R154) -/

/-- One more valid `0x86` frame: `min(count + 1, 2^COUNT_WIDTH - 1)`, saturating and never wrapping. -/
def bumpCount : CounterWidth → Nat → Nat
  | .bits w, n => min (n + 1) (2 ^ w - 1)
  | .unbounded, n => n + 1

/-! ### Per-connection state (R35, R39) -/

/-- The end of a connection: `connected`, `buf`, `len`, `count` cleared, `fault` unchanged (R35, R171). -/
def dropConnection (s : State) : State :=
  { s with connected := false, buf := Memory.cleared, count := 0 }

/-- The start of a connection: `connected` set, `buf`, `len`, `count` cleared, `fault` unchanged (R35, R170). -/
def openConnection (s : State) : State :=
  { s with connected := true, buf := Memory.cleared, count := 0 }

/-- The values after RST (R35, R173). -/
def resetBlock (s : State) : State :=
  { s with connected := false, buf := Memory.cleared, count := 0, fault := false }

/-! ### Taking an exceptional condition (R13, R190 to R195)

No condition saves state or transfers control, and there is no return operation: after codes 1 to 4 the block takes the
next event, after code 5 only RST (R199, R201). -/

/-- The numeric code of a condition; 0 would mean none (R190). -/
def conditionCode : Condition → Nat
  | .checksumMismatch _ _ => 1
  | .unknownCommand _ => 2
  | .streamDesync _ => 3
  | .connectionLost => 4
  | .assemblerInvariantViolation => 5

/-- `raise E(info)`: the record of the condition and its whole effect on the state (R191 to R195). -/
def raiseCondition (c : Condition) (s : State) : State :=
  match c with
  | .checksumMismatch expected actual => emit (.checksumMismatch expected actual) s
  | .unknownCommand cmd => emit (.ignored cmd) s
  | .streamDesync b => emit (.discarded b) s
  | .connectionLost => dropConnection (emit .linkLost s)
  | .assemblerInvariantViolation =>
    emit (.fault (conditionCode .assemblerInvariantViolation)) { s with fault := true }

/-! ### The guard of a faulted block -/

/-- While `fault = 1` every event but RST changes nothing and outputs nothing (R175). -/
def whenLive (f : State → State) (s : State) : State := if s.fault then s else f s

end Sys2Proof.Machine
end

