-- ==== Sys2Proof/Machine/Stabilizer.lean ====
section
/-! DEFINITION. The warm-up counter and the report gate (spec/43_stabilizer.md). The counter's width is an argument; the block's own is `Config.countWidth`. -/

namespace Sys2Proof.Machine

/-- `Gate(m)`: surface the measurement when the count, which includes this frame, has reached the threshold (R151, R152). -/
def gate (m : Measurement) (s : State) : State :=
  if Config.warmupThreshold ≤ s.count then emit (.report m.ppm m.temperatureCelsius) s else s

/-- `Stabilize(m)`: count first, then the gate (R150, conflict C3). -/
def stabilize (W : CounterWidth) (m : Measurement) (s : State) : State :=
  let n := bumpCount W s.count
  gate m (emit (.decoded m.ppm m.temperatureCelsius n) { s with count := n })

end Sys2Proof.Machine
end

