-- ==== Sys2Proof/Machine/Decoder.lean ====
section
/-! DEFINITION. The packet decoder and the frame classes READ_CO2, UNKNOWN_CMD and the request literal (spec/42_packet_decoder.md; spec/30_encoding.md R75, R80). -/

namespace Sys2Proof.Machine

/-- `READ_CO2(frame)` (R137): the measurement goes to the stabilizer. -/
def readCo2 (W : CounterWidth) (f : Frame) (s : State) : State := stabilize W (measurementOf f) s

/-- `UNKNOWN_CMD(frame)` (R138): UnknownCommand is raised; no state change. -/
def unknownCmd (f : Frame) (s : State) : State := raiseCondition (.unknownCommand f.cmd) s

/-- `DecodeChecked(frame)` (R136): first the checksum, then, only if it is valid, the command. -/
def decodeChecked (W : CounterWidth) (f : Frame) (s : State) : State :=
  match validate f with
  | .invalid expected actual => raiseCondition (.checksumMismatch expected actual) s
  | .valid g => if g.cmd = Config.cmdReadCo2 then readCo2 W g s else unknownCmd g s

/-- `DecodeFrame(frame)` (R135): the check of the assembler's invariants, then `DecodeChecked`. -/
def decodeFrame (W : CounterWidth) (bytes : List Byte) (s : State) : State :=
  match frameOfBytes? bytes with
  | none => raiseCondition .assemblerInvariantViolation s
  | some f =>
    if f.start = Config.startMarker then decodeChecked W f s
    else raiseCondition .assemblerInvariantViolation s

/-! The meanings of the frame classes: what the decoder does when it is handed that frame (R135 gives the decoder its
meaning on its own; log entry 9). In a run this happens inside a completing RXBYTE. -/

/-- READ_CO2 (R137): the frame `FF 86 …` is handed to the decoder. -/
def execReadCo2 (ppmHi ppmLo tempRaw rsv16Hi rsv16Lo rsv8 cks : Byte) (s : State) : Result :=
  .next (whenLive (decodeFrame Config.countWidth
    [Config.startMarker, Config.cmdReadCo2, ppmHi, ppmLo, tempRaw, rsv16Hi, rsv16Lo, rsv8, cks]) s)

/-- UNKNOWN_CMD (R138): the frame `FF cmd …` is handed to the decoder. -/
def execUnknownCmd (cmd d0 d1 d2 d3 d4 d5 cks : Byte) (s : State) : Result :=
  .next (whenLive (decodeFrame Config.countWidth
    [Config.startMarker, cmd, d0, d1, d2, d3, d4, d5, cks]) s)

/-- POLL_READ_CO2 (R80, R205): the block neither produces it nor treats it specially; received, the literal is a frame
handed to the decoder like any other. -/
def execPollReadCo2 (s : State) : Result :=
  .next (whenLive (decodeFrame Config.countWidth Config.pollRequest) s)

end Sys2Proof.Machine
end

