-- ==== Sys2Proof/Machine/Assembler.lean ====
section
/-! DEFINITION. The Frame Assembler: RXBYTE and its four cases (spec/40_frame_assembler.md). -/

namespace Sys2Proof.Machine

/-- Case DISCARD (R101): StreamDesync is raised; no state change. -/
def discardByte (b : Byte) (s : State) : State := raiseCondition (.streamDesync b) s

/-- Case START (R102): `buf <- [0xFF]`, `len <- 1` (conflict C2). -/
def startFrame (b : Byte) (s : State) : State := { s with buf := [b] }

/-- Case APPEND (R103): the byte is appended whatever its value. -/
def appendByte (b : Byte) (s : State) : State := { s with buf := Memory.append s.buf b }

/-- Case COMPLETE (R104): the buffer is cleared before, and whatever, the decoder does. -/
def completeFrame (W : CounterWidth) (b : Byte) (s : State) : State :=
  let bytes := Memory.append s.buf b
  decodeFrame W bytes (emit (.frameDone bytes) { s with buf := Memory.cleared })

/-- `RXBYTE(b)` of a block that is not faulted (R100). -/
def rxByte (W : CounterWidth) (b : Byte) (s : State) : State :=
  if !s.connected then s
  else if s.len = 0 then
    if isFrameStart s.len b then startFrame b s else discardByte b s
  else if s.len ≤ 7 then appendByte b s
  else completeFrame W b s

/-- RXBYTE (R100). -/
def execRxbyte (b : Byte) (s : State) : Result :=
  .next (whenLive (rxByte Config.countWidth b) s)

end Sys2Proof.Machine
end

