-- ==== Sys2Proof/Machine/LinkControl.lean ====
section
/-! DEFINITION. Link control: LINKUP, LINKDOWN, NOP, RST (spec/44_link_control.md). -/

namespace Sys2Proof.Machine

/-- `LINKUP` of a block that is not faulted (R170); also when connected: a new connection (corner a). -/
def linkUp (s : State) : State := emit .linkUp (openConnection s)

/-- `LINKDOWN` of a block that is not faulted (R171): ConnectionLost is raised if there was a connection; the fields are
cleared either way (log entry 12). -/
def linkDown (s : State) : State :=
  if s.connected then raiseCondition .connectionLost s else dropConnection s

/-- RST (R173): the only operation a faulted block performs (R175). -/
def execRst (s : State) : Result := .next (resetBlock s)

/-- LINKDOWN (R171). -/
def execLinkdown (s : State) : Result := .next (whenLive linkDown s)

/-- LINKUP (R170). -/
def execLinkup (s : State) : Result := .next (whenLive linkUp s)

/-- NOP (R172): no state change, no output. -/
def execNop (s : State) : Result := .next s

end Sys2Proof.Machine
end

