-- ==== Sys2Proof/Machine/Dispatch.lean ====
section
/-! DEFINITION. One arm per operation of spec/opcode_table.json. -/

namespace Sys2Proof.Machine

def exec (i : Instr) (s : State) : Host.Outcome State Fault Refusal :=
  match i with
  | .rst => Sys2Proof.Machine.execRst s
  | .linkdown => Sys2Proof.Machine.execLinkdown s
  | .linkup => Sys2Proof.Machine.execLinkup s
  | .rxbyte b => Sys2Proof.Machine.execRxbyte b s
  | .nop => Sys2Proof.Machine.execNop s
  | .readCo2 ppmHi ppmLo tempRaw rsvHi rsvLo rsv cks => Sys2Proof.Machine.execReadCo2 ppmHi ppmLo tempRaw rsvHi rsvLo rsv cks s
  | .unknownCmd cmd d0 d1 d2 d3 d4 d5 cks => Sys2Proof.Machine.execUnknownCmd cmd d0 d1 d2 d3 d4 d5 cks s
  | .pollReadCo2 => Sys2Proof.Machine.execPollReadCo2 s

end Sys2Proof.Machine
end

