-- ==== Sys2Proof/Machine/Fetch.lean ====
section
/-! DEFINITION. Taking the next input event (spec/00_scope.md R8, spec/30_encoding.md R71), and placing a word of the table where the next step takes it. -/

namespace Sys2Proof.Machine

/-- The event word the next step samples: the next one presented, or, with none presented, the word of a step with no
input, which is NOP (R172; log entry 3). -/
def nextEvent (s : State) : EventWord := s.inbox.headD 0x000#12

/-- The start of a step: the event is taken, and the outputs of the step before are gone (R51, R58, R200). -/
def takeEvent (s : State) : State := { s with inbox := s.inbox.tail, out := [] }

/-- The environment presents an event word as the next one. -/
def present (E : EventWord) (s : State) : State := { s with inbox := E :: s.inbox }

/-- The environment presents the last byte of a frame to a connected block whose buffer holds the bytes before it
(log entry 9). -/
def presentFrame (bytes : List Byte) (s : State) : State :=
  present (0x1#4 ++ bytes.getLastD 0#8) { s with connected := true, buf := bytes.dropLast }

/-- A word of the table placed so that the next step runs it (log entry 4): an event word is presented; a frame stands in
the buffer but for its last byte, which is presented. -/
def placeTableWord (nbits w : Nat) (s : State) : State :=
  match codeOfTableWord nbits w with
  | none => s
  | some (.event E) => present E s
  | some (.frame bytes) => presentFrame bytes s

end Sys2Proof.Machine
end

