-- ==== Sys2Proof/Machine/Step.lean ====
section
/-! DEFINITION. The top-level step (spec/44_link_control.md R175). -/

namespace Sys2Proof.Machine

/-- `Step(S, E)`: take the event word, decode it, perform the operation (R175). The guard `fault = 1` stands in each
operation but RST (`whenLive`). -/
def step (s : State) : Host.Outcome State Fault Refusal :=
  exec (decodeEvent (nextEvent s)) (takeEvent s)

/-- A word of the table stored where `step` takes its next operation (log entry 4). -/
def State.withFetchWord (s : State) (nbits w : Nat) : State := placeTableWord nbits w s

end Sys2Proof.Machine
end

