-- ==== Sys2Proof/Machine/Ports.lean ====
section
/-! DEFINITION. The signal-level binding (spec/30_encoding.md R88): the input pins as an event word, and the output ports as a view of the state after a step. No rule of behaviour depends on it. -/

namespace Sys2Proof.Machine

/-- The input pins `rst`, `link_down`, `link_up`, `rx_valid`, `rx_data` as the event word `E[11:0]` (R71, R88). -/
def eventOfPins (rst linkDown linkUp rxValid : Bool) (rxData : Byte) : EventWord :=
  BitVec.ofBool rst ++ BitVec.ofBool linkDown ++ BitVec.ofBool linkUp ++ BitVec.ofBool rxValid ++ rxData

/-- The output ports in one cycle (R88). -/
structure Ports where
  connected : Bool
  ready : Bool
  fault : Bool
  reportValid : Bool
  reportPpm : BitVec 16
  reportTemp : BitVec 9
  csumErr : Bool
  csumExpected : Byte
  csumActual : Byte
  trKind : BitVec 3
  trFrame : FrameWord
  trByte : Byte
  dbgLen : BitVec 4
  dbgCount : BitVec 8
deriving DecidableEq, Repr

/-- The measurement of the step's report, if it has one. -/
def reportIn (out : List Out) : Option Measurement :=
  out.findSome? fun o => match o with
    | .report p t => some ⟨p, t⟩
    | _ => none

/-- The two checksum values of the step's diagnostic, if it has one. -/
def mismatchIn (out : List Out) : Option (Byte × Byte) :=
  out.findSome? fun o => match o with
    | .checksumMismatch e a => some (e, a)
    | _ => none

/-- The value completed in the step, if there was one. -/
def frameIn (out : List Out) : Option (List Byte) :=
  out.findSome? fun o => match o with
    | .frameDone f => some f
    | _ => none

/-- The record kind one trace record stands for: 2 Decoded, 3 Ignored, 4 Discarded, 5 LinkUp, 6 LinkLost, 7 Fault; a
FrameDone is kind 1 unless another kind in the same cycle implies it (R88). -/
def traceKindOf : Out → Option (BitVec 3)
  | .decoded _ _ _ => some 2#3
  | .ignored _ => some 3#3
  | .discarded _ => some 4#3
  | .linkUp => some 5#3
  | .linkLost => some 6#3
  | .fault _ => some 7#3
  | .frameDone _ => none
  | .report _ _ => none
  | .checksumMismatch _ _ => none

/-- Port `tr_kind` (R88): 0 none, 1 FrameDone only. -/
def trKindOf (out : List Out) : BitVec 3 :=
  match out.findSome? traceKindOf with
  | some k => k
  | none => if (frameIn out).isSome then 1#3 else 0#3

/-- The byte of the step's Discarded or Ignored record, if it has one (R88, `tr_byte`). -/
def traceByteIn (out : List Out) : Option Byte :=
  out.findSome? fun o => match o with
    | .ignored c => some c
    | .discarded b => some b
    | _ => none

/-- The frame completed in the step as the port `tr_frame` shows it. DESIGN CHOICE: offset 0 in bits 71 to 64 (log entry
24; R88 says only "the frame", and R11 keeps its numbering for the opcode table). A completed value of another length than
9 is no frame and shows nothing that R88 states. -/
def traceFrameIn (out : List Out) : Option FrameWord :=
  match frameIn out with
  | some f => if f.length = Config.frameLen then some (BitVec.ofNat 72 (natOfBytes f)) else none
  | none => none

/-- The output ports after a step, in the cycle numbered `cycle`. A data port whose valid signal is 0 shows a free value
of that cycle (R88, D27; log entry 16); the byte order of `tr_frame` is the model's choice (log entry 24). -/
def portsOf (cycle : Nat) (s : State) : Ports where
  connected := s.connected
  ready := Sys2Proof.Machine.ready s
  fault := s.fault
  reportValid := (reportIn s.out).isSome
  reportPpm := match reportIn s.out with
    | some m => BitVec.ofNat 16 m.ppm
    | none => Config.idleReportPpm cycle
  reportTemp := match reportIn s.out with
    | some m => BitVec.ofInt 9 m.temperatureCelsius
    | none => Config.idleReportTemp cycle
  csumErr := (mismatchIn s.out).isSome
  csumExpected := match mismatchIn s.out with
    | some p => p.1
    | none => Config.idleCsumExpected cycle
  csumActual := match mismatchIn s.out with
    | some p => p.2
    | none => Config.idleCsumActual cycle
  trKind := trKindOf s.out
  trFrame := match traceFrameIn s.out with
    | some F => F
    | none => Config.idleTrFrame cycle
  trByte := match traceByteIn s.out with
    | some b => b
    | none => Config.idleTrByte cycle
  dbgLen := BitVec.ofNat 4 s.len
  dbgCount := BitVec.ofNat 8 s.count

/-- One hexadecimal digit, 0 to 15 (R87). -/
def hexDigit (c : HexCase) (n : Nat) : Char :=
  if n < 10 then Char.ofNat (48 + n)
  else match c with
    | .upper => Char.ofNat (55 + n)
    | .lower => Char.ofNat (87 + n)

/-- How an environment renders a byte of the diagnostic as text: exactly two digits, zero-padded; the digit case is the
open parameter `HEX_CASE` (R87, decision D13; log entry 17). Outside the block. -/
def renderByte (c : HexCase) (b : Byte) : List Char :=
  [hexDigit c (b.toNat / 16), hexDigit c (b.toNat % 16)]

end Sys2Proof.Machine
end

