-- ==== Sys2Proof/Machine/Stimulus.lean ====
section
/-! DEFINITION. The stimulus notation for input event sequences and its pseudo-operations (spec/30_encoding.md R84, R85). -/

namespace Sys2Proof.Machine

/-- `RST` (R84). -/
def evRst : EventWord := 0x800#12

/-- `DOWN` (R84). -/
def evDown : EventWord := 0x400#12

/-- `UP` (R84). -/
def evUp : EventWord := 0x200#12

/-- `RX hh` (R84). -/
def evRx (b : Byte) : EventWord := 0x1#4 ++ b

/-- `NOP` (R84). -/
def evNop : EventWord := 0x000#12

/-- `RXS h0 h1 ... hn`: a chunk (R85). -/
def stimRxs (bytes : List Byte) : List EventWord := bytes.map evRx

/-- `IDLE n` (R85). -/
def stimIdle (n : Nat) : List EventWord := List.replicate n evNop

/-- `REP n` of an event sequence (R85). -/
def stimRep (n : Nat) (evs : List EventWord) : List EventWord := (List.replicate n evs).flatten

/-- The frame with the given body and the checksum that makes it valid, moved by `off` (R85: 0 for `FRAME`, 1 for
`BADFRAME`). -/
def frameWithBody (cmd d0 d1 d2 d3 d4 d5 off : Byte) : Frame :=
  let f : Frame := ⟨Config.startMarker, cmd, d0, d1, d2, d3, d4, d5, 0#8⟩
  { f with cks := checksum f + off }

/-- `FRAME cc d0 d1 d2 d3 d4 d5` (R85). -/
def stimFrame (cmd d0 d1 d2 d3 d4 d5 : Byte) : List EventWord :=
  stimRxs (frameBytes (frameWithBody cmd d0 d1 d2 d3 d4 d5 0#8))

/-- `BADFRAME cc d0 d1 d2 d3 d4 d5` (R85). -/
def stimBadFrame (cmd d0 d1 d2 d3 d4 d5 : Byte) : List EventWord :=
  stimRxs (frameBytes (frameWithBody cmd d0 d1 d2 d3 d4 d5 1#8))

/-- `CO2 p t`, for `p` in 0 to 65535 and `t` in -40 to 215 (R85). -/
def stimCo2 (p : Nat) (t : Int) : List EventWord :=
  stimFrame Config.cmdReadCo2 (BitVec.ofNat 8 (p / 256)) (BitVec.ofNat 8 (p % 256))
    (BitVec.ofInt 8 (t + Config.tempBias)) 0#8 0#8 0#8

end Sys2Proof.Machine
end

