-- ==== Sys2Proof/Safety.lean ====
section
/-! DEFINITION. What statements speak of: the invariant of the block, runs of input events, what a run outputs, and the same block at another counter width. -/

namespace Sys2Proof.Machine

/-! ### The invariant (R22, R24, R27, R32, R109) -/

/-- What holds in every state reachable from reset: the buffer is in order (at most 8 bytes, first byte the start
marker), a disconnected block holds no bytes and no count, the count fits its 8 bits, the block is not faulted. -/
def BlockInv (s : State) : Prop :=
  Memory.wf s.buf = true ∧ (s.connected = false → s.buf = [] ∧ s.count = 0) ∧ s.count ≤ 255 ∧ s.fault = false

/-! ### Runs (R8, R61, R241) -/

/-- A run: the fold of `step` over the events the environment presents, with the concatenation of each step's outputs.
A step that answered a fault or a refusal would end it. -/
def runEvents : List EventWord → State → State × List Out
  | [], s => (s, [])
  | E :: evs, s =>
    match step (present E s) with
    | .next t => ((runEvents evs t).1, t.out ++ (runEvents evs t).2)
    | .fault _ => (s, [])
    | .refused _ => (s, [])

/-- `Feed(S, bytes)`: the run of `RXBYTE` on each byte (R107). -/
def feed (bytes : List Byte) (s : State) : State × List Out := runEvents (stimRxs bytes) s

/-- Two states agree in every field the spec gives the block (R20). -/
def sameBlock (s t : State) : Prop :=
  s.connected = t.connected ∧ s.buf = t.buf ∧ s.count = t.count ∧ s.fault = t.fault

/-- An event that leaves the connection as it is: its operation is RXBYTE or NOP. -/
def keepsConnection (E : EventWord) : Bool :=
  match decodeEvent E with
  | .rxbyte _ => true
  | .nop => true
  | _ => false

/-- The event's operation is NOP. -/
def isNop (E : EventWord) : Bool := decide (decodeEvent E = .nop)

/-! ### What a run outputs (R81) -/

/-- The records of channel `ext`, as measurements. -/
def reportsIn (out : List Out) : List Measurement :=
  out.filterMap fun o => match o with
    | .report p t => some ⟨p, t⟩
    | _ => none

/-- The frames completed, in order (`trace.FrameDone`). -/
def framesIn (out : List Out) : List (List Byte) :=
  out.filterMap fun o => match o with
    | .frameDone f => some f
    | _ => none

/-- The bytes discarded, in order (`trace.Discarded`). -/
def discardedIn (out : List Out) : List Byte :=
  out.filterMap fun o => match o with
    | .discarded b => some b
    | _ => none

/-- The records that are not on channel `trace`. -/
def extDiag (out : List Out) : List Out := out.filter (fun o => channelOf o != .trace)

/-- The checksum byte of the frame is right: offsets 1 to 8 sum to zero modulo 256 (R121 form c). -/
def checksumValid (f : Frame) : Prop :=
  (f.cmd.toNat + f.d0.toNat + f.d1.toNat + f.d2.toNat + f.d3.toNat + f.d4.toNat + f.d5.toNat + f.cks.toNat) % 256 = 0

/-- The measurement of a byte sequence that is a valid `0x86` frame, and nothing for any other (R122, R137). -/
def validCo2 (bytes : List Byte) : Option Measurement :=
  match frameOfBytes? bytes with
  | none => none
  | some f =>
    if f.start = Config.startMarker ∧ validate f = .valid f ∧ f.cmd = Config.cmdReadCo2 then some (measurementOf f)
    else none

/-! ### The block at another counter width (R154, R158) -/

/-- The effect of each operation when the counter has the width `W`. -/
def performAt (W : CounterWidth) (i : Instr) (s : State) : State :=
  match i with
  | .rst => resetBlock s
  | .linkdown => whenLive linkDown s
  | .linkup => whenLive linkUp s
  | .rxbyte b => whenLive (rxByte W b) s
  | .nop => s
  | .readCo2 hi lo tt rh rl r8 k =>
    whenLive (decodeFrame W [Config.startMarker, Config.cmdReadCo2, hi, lo, tt, rh, rl, r8, k]) s
  | .unknownCmd c d0 d1 d2 d3 d4 d5 k =>
    whenLive (decodeFrame W [Config.startMarker, c, d0, d1, d2, d3, d4, d5, k]) s
  | .pollReadCo2 => whenLive (decodeFrame W Config.pollRequest) s

/-- A run of the block whose counter has the width `W`. -/
def runAt (W : CounterWidth) : List EventWord → State → State × List Out
  | [], s => (s, [])
  | E :: evs, s =>
    let t := performAt W (decodeEvent E) { s with out := [] }
    ((runAt W evs t).1, t.out ++ (runAt W evs t).2)

end Sys2Proof.Machine
end

