-- ==== Sys2Proof/Certificates/Slice0/Obligations.lean ====
section
/-! DEFINITION. The statements for the provers. Each docstring names the rules of spec/ it formalises. -/

open Sys2Proof Sys2Proof.Machine

/-! ### Encoding -/

/-- R72: the highest set bit of `E[11:8]` selects the operation, lower bits are ignored; the table's mask and match say the
same; each operation's canonical word. -/
def Obligations.EventWordDecodesByPriority : Prop :=
  (∀ E : EventWord,
    (E.extractLsb' 11 1 = 1#1 → E &&& 0x800#12 = 0x800#12 ∧ decodeEvent E = .rst) ∧
    (E.extractLsb' 10 2 = 0b01#2 → E &&& 0xC00#12 = 0x400#12 ∧ decodeEvent E = .linkdown) ∧
    (E.extractLsb' 9 3 = 0b001#3 → E &&& 0xE00#12 = 0x200#12 ∧ decodeEvent E = .linkup) ∧
    (E.extractLsb' 8 4 = 0b0001#4 → E &&& 0xF00#12 = 0x100#12 ∧ decodeEvent E = .rxbyte (E.extractLsb' 0 8)) ∧
    (E.extractLsb' 8 4 = 0b0000#4 → E &&& 0xF00#12 = 0x000#12 ∧ decodeEvent E = .nop)) ∧
  encode .rst = .event 0x800#12 ∧ encode .linkdown = .event 0x400#12 ∧ encode .linkup = .event 0x200#12 ∧
  encode .nop = .event 0x000#12 ∧ ∀ b : Byte, encode (.rxbyte b) = .event (0x100#12 + b.zeroExtend 12)

/-- Decode of encode, for every well-formed operation with every operand, on the code and on the number the table writes. -/
def Obligations.DecodeEncodeRoundTrip : Prop :=
  ∀ i : Instr, i.wellFormed = true →
    decode (encode i) = .ok i ∧ decodeTableWord (tableBits (encode i)) (tableWord (encode i)) = some i

/-- Encode of decode: every frame vector that begins with the start marker is the encoding of exactly what it decodes to,
so no bit of it is dropped; any other vector is refused. -/
def Obligations.FrameWordsReencodeExactly : Prop :=
  ∀ F : FrameWord,
    (F.extractLsb' 64 8 = 0xFF#8 → ∃ i : Instr, i.wellFormed = true ∧ decodeTableWord 72 F.toNat = some i ∧
      tableBits (encode i) = 72 ∧ tableWord (encode i) = F.toNat) ∧
    (F.extractLsb' 64 8 ≠ 0xFF#8 → decodeTableWord 72 F.toNat = none)

/-- R73, R75 and the table's masks: which class a frame vector is, and which of its bits are which field. The request
literal has a row and an operation of its own (log entry 10: the model's choice). -/
def Obligations.FrameClassesByMaskAndMatch : Prop :=
  (∀ F : FrameWord, F &&& 0xFFFF00000000000000#72 = 0xFF8600000000000000#72 →
    decodeTableWord 72 F.toNat = some (.readCo2 (F.extractLsb' 48 8) (F.extractLsb' 40 8) (F.extractLsb' 32 8)
      (F.extractLsb' 24 8) (F.extractLsb' 16 8) (F.extractLsb' 8 8) (F.extractLsb' 0 8))) ∧
  (∀ F : FrameWord, F &&& 0xFF0000000000000000#72 = 0xFF0000000000000000#72 →
    F &&& 0xFFFF00000000000000#72 ≠ 0xFF8600000000000000#72 → F ≠ 0xFF0186000000000079#72 →
    decodeTableWord 72 F.toNat = some (.unknownCmd (F.extractLsb' 56 8) (F.extractLsb' 48 8) (F.extractLsb' 40 8)
      (F.extractLsb' 32 8) (F.extractLsb' 24 8) (F.extractLsb' 16 8) (F.extractLsb' 8 8) (F.extractLsb' 0 8))) ∧
  decodeTableWord 72 0xFF0186000000000079 = some .pollReadCo2

/-- Words written out from spec/95_test_vectors.md V1 to V9, S6, V38 and S1, and the operations they decode to. That the
request literal decodes to an operation of its own is the model's choice (log entry 10): R80 and V27 call it, received, an
UNKNOWN_CMD with cmd 0x01. -/
def Obligations.KnownWordsDecode : Prop :=
  decodeEvent 0xFFF#12 = .rst ∧ decodeEvent 0x7FF#12 = .linkdown ∧ decodeEvent 0x3A5#12 = .linkup ∧
  decodeEvent 0x1A5#12 = .rxbyte 0xA5#8 ∧ decodeEvent 0x0A5#12 = .nop ∧
  decodeTableWord 72 0xFF8601F4280000005D = some (.readCo2 0x01#8 0xF4#8 0x28#8 0x00#8 0x00#8 0x00#8 0x5D#8) ∧
  decodeTableWord 72 0xFFFFFFFFFFFFFFFF07 =
    some (.unknownCmd 0xFF#8 0xFF#8 0xFF#8 0xFF#8 0xFF#8 0xFF#8 0xFF#8 0x07#8) ∧
  decodeTableWord 72 0xFF0186000000000079 = some .pollReadCo2

/-! ### The step -/

/-- A step runs the decoded operation on the state with the event taken and the previous outputs gone; with nothing
presented it runs NOP (log entry 3: DEDUCED from R172). -/
def Obligations.StepRunsDecodedInstruction : Prop :=
  (∀ (s : State) (E : EventWord) (rest : List EventWord), s.inbox = E :: rest →
    step s = exec (decodeEvent E) { s with inbox := rest, out := [] }) ∧
  (∀ s : State, s.inbox = [] → step s = exec .nop { s with out := [] })

/-- R175: RST always; with `fault = 1` nothing else; otherwise the decoded operation; total; and no run from the reset
state reaches `fault = 1`. -/
def Obligations.StepFollowsTopLevelRule : Prop :=
  (∀ (s : State) (E : EventWord),
    (decodeEvent E = .rst → step (present E s) = exec .rst { s with out := [] }) ∧
    (decodeEvent E ≠ .rst → s.fault = true → step (present E s) = .next { s with out := [] }) ∧
    (s.fault = false → step (present E s) = exec (decodeEvent E) { s with out := [] }) ∧
    ∃ t, step (present E s) = .next t) ∧
  ∀ evs : List EventWord, (runEvents evs State.reset).1.fault = false

/-- A word of the table, placed by `withFetchWord`, is what the next step runs: an event word on the state as it is, a
frame on a connected block with an empty buffer whose step has already recorded the completed frame (log entries 4, 9:
the model's choice). -/
def Obligations.PlacedWordIsWhatTheNextStepRuns : Prop :=
  ∀ (s : State) (nbits w : Nat) (i : Instr), s.fault = false → decodeTableWord nbits w = some i →
    (nbits ≤ 16 → step (s.withFetchWord nbits w) = exec i { s with out := [] }) ∧
    (nbits = 72 → step (s.withFetchWord nbits w) =
      exec i { s with connected := true, buf := [], out := [.frameDone (bytesOfFrameWord (BitVec.ofNat 72 w))] })

/-- R8, R241: a run of the machine is the fold of the spec's `Step`: no event of it is refused or faults. -/
def Obligations.RunsAreFoldsOfTheStep : Prop :=
  ∀ (evs : List EventWord) (s : State), runEvents evs s = runAt Config.countWidth evs s

/-! ### Link control -/

/-- R170: LINKUP, also while connected, opens a fresh connection; `E[8]` and `E[7:0]` are ignored. -/
def Obligations.LinkUpOpensFreshConnection : Prop :=
  ∀ s : State, s.fault = false →
    exec .linkup s = .next { s with connected := true, buf := [], count := 0, out := s.out ++ [.linkUp] } ∧
    (∀ E : EventWord, E &&& 0xE00#12 = 0x200#12 →
      step (present E s) = .next { s with connected := true, buf := [], count := 0, out := [.linkUp] }) ∧
    (∀ t, exec .linkup s = .next t → ready t = false ∧ t.fault = s.fault)

/-- R171: LINKDOWN discards the connection; LinkLost only if there was one; `E[9:0]` are ignored; from a disconnected block
of the invariant it changes nothing, the rule's corner (c). That it clears the fields of a disconnected block outside the
invariant too is log entry 12 (DEDUCED from the rule's pseudocode, against its corner (c)). -/
def Obligations.LinkDownDiscardsConnection : Prop :=
  ∀ s : State, s.fault = false →
    exec .linkdown s = .next { s with
      connected := false, buf := [], count := 0
      out := s.out ++ (if s.connected then [.linkLost] else []) } ∧
    (∀ E : EventWord, E &&& 0xC00#12 = 0x400#12 →
      step (present E s) = .next { s with
        connected := false, buf := [], count := 0
        out := if s.connected then [.linkLost] else [] }) ∧
    (∀ t, exec .linkdown s = .next t → ready t = false) ∧
    (BlockInv s → s.connected = false → exec .linkdown s = .next s)

/-- R172: NOP changes nothing, and any number of NOPs, from any word with `E[11:8] = 0000`, outputs nothing. -/
def Obligations.NopChangesNothing : Prop :=
  (∀ s : State, exec .nop s = .next s) ∧
  (∀ (evs : List EventWord) (s : State), (∀ E ∈ evs, E.extractLsb' 8 4 = 0#4) →
    sameBlock (runEvents evs s).1 s ∧ (runEvents evs s).2 = [])

/-- R173: RST puts every field at its reset value from any state, faulted ones too, outputs nothing, and is the only
operation that clears `fault`; after it nothing happens until a LINKUP. The third clause, that every other operation of a
faulted block changes nothing, is R175 for the event operations, and for the frame classes run on their own it is log
entry 21 (DEDUCED). -/
def Obligations.RstClearsEverything : Prop :=
  (∀ s : State, exec .rst s = .next { s with connected := false, buf := [], count := 0, fault := false }) ∧
  (∀ (s : State) (E : EventWord), E.extractLsb' 11 1 = 1#1 →
    step (present E s) = .next { State.reset with inbox := s.inbox }) ∧
  (∀ (i : Instr) (s : State), i ≠ .rst → s.fault = true → exec i s = .next s) ∧
  (∀ evs : List EventWord, (∀ E ∈ evs, decodeEvent E ≠ .linkup) →
    sameBlock (runEvents evs State.reset).1 State.reset ∧ (runEvents evs State.reset).2 = [])

/-- R35: the table of values after RST, LINKUP and LINKDOWN, and the reset state itself. -/
def Obligations.ResetAndLinkValues : Prop :=
  (State.reset.connected = false ∧ State.reset.buf = [] ∧ State.reset.len = 0 ∧ State.reset.count = 0 ∧
    State.reset.fault = false ∧ State.reset.out = [] ∧ modeOf State.reset = .disconnected) ∧
  (∀ s : State, ∃ t, exec .rst s = .next t ∧ t.connected = false ∧ t.buf = [] ∧ t.len = 0 ∧ t.count = 0 ∧
    t.fault = false ∧ t.out = s.out) ∧
  (∀ s : State, s.fault = false → ∃ t, exec .linkup s = .next t ∧ t.connected = true ∧ t.buf = [] ∧ t.len = 0 ∧
    t.count = 0 ∧ t.fault = s.fault) ∧
  (∀ s : State, s.fault = false → ∃ t, exec .linkdown s = .next t ∧ t.connected = false ∧ t.buf = [] ∧ t.len = 0 ∧
    t.count = 0 ∧ t.fault = s.fault)

/-- R197: RST over LINKDOWN over LINKUP over RXBYTE: a word with several of `E[11:8]` set does what the winner's canonical
word does, and the rest, a byte included, is lost. -/
def Obligations.CoincidentEventsLoseAllButTheHighest : Prop :=
  ∀ (s : State) (E : EventWord),
    (E.extractLsb' 11 1 = 1#1 → step (present E s) = step (present 0x800#12 s)) ∧
    (E.extractLsb' 10 2 = 0b01#2 → step (present E s) = step (present 0x400#12 s)) ∧
    (E.extractLsb' 9 3 = 0b001#3 → step (present E s) = step (present 0x200#12 s))

/-- R63, which the spec marks as its own inference from R35: no byte consumed before a LINKDOWN, a LINKUP or an RST influences any output produced after it. -/
def Obligations.LinkOperationsAreBarriers : Prop :=
  ∀ (E : EventWord) (s₁ s₂ t₁ t₂ : State) (evs : List EventWord),
    (decodeEvent E = .rst ∨
      ((decodeEvent E = .linkdown ∨ decodeEvent E = .linkup) ∧ s₁.fault = false ∧ s₂.fault = false)) →
    step (present E s₁) = .next t₁ → step (present E s₂) = .next t₂ →
    sameBlock t₁ t₂ ∧ (runEvents evs t₁).2 = (runEvents evs t₂).2 ∧
      sameBlock (runEvents evs t₁).1 (runEvents evs t₂).1

/-! ### The Frame Assembler -/

/-- R105: the start test. -/
def Obligations.FrameStartOnlyOnEmptyBuffer : Prop :=
  (∀ (len : Nat) (b : Byte), isFrameStart len b = true ↔ len = 0 ∧ b = 0xFF#8) ∧
  (∀ (len : Nat) (b : Byte), 1 ≤ len → isFrameStart len b = false)

/-- R100: which case a received byte is. A faulted or disconnected block ignores it without any output. -/
def Obligations.RxByteSelectsItsCase : Prop :=
  ∀ (s : State) (b : Byte),
    (s.fault = true ∨ s.connected = false → exec (.rxbyte b) s = .next s) ∧
    (s.fault = false → s.connected = true →
      (s.len = 0 → isFrameStart s.len b = true → exec (.rxbyte b) s = .next (startFrame b s)) ∧
      (s.len = 0 → isFrameStart s.len b = false → exec (.rxbyte b) s = .next (discardByte b s)) ∧
      (1 ≤ s.len → s.len ≤ 7 → exec (.rxbyte b) s = .next (appendByte b s)) ∧
      (s.len = 8 → exec (.rxbyte b) s = .next (completeFrame Config.countWidth b s)))

/-- R101: with an empty buffer every byte but the start marker is discarded, any number of them in a row, and nothing goes
to `ext` or `diag`. -/
def Obligations.StrayBytesAreDiscarded : Prop :=
  ∀ s : State, s.fault = false → s.connected = true → s.buf = [] →
    (∀ b : Byte, b ≠ 0xFF#8 → exec (.rxbyte b) s = .next { s with out := s.out ++ [.discarded b] }) ∧
    (∀ bytes : List Byte, (∀ b ∈ bytes, b ≠ 0xFF#8) →
      sameBlock (feed bytes s).1 s ∧ (feed bytes s).2 = bytes.map Out.discarded ∧ extDiag (feed bytes s).2 = [])

/-- R102: the start marker with an empty buffer begins a frame. -/
def Obligations.StartMarkerBeginsFrame : Prop :=
  ∀ s : State, s.fault = false → s.connected = true → s.buf = [] →
    exec (.rxbyte 0xFF#8) s = .next { s with buf := [0xFF#8] }

/-- R103: inside a frame every byte is appended, `0xFF` like any other. -/
def Obligations.ByteInsideFrameIsAppended : Prop :=
  ∀ (s : State) (b : Byte), s.fault = false → s.connected = true → 1 ≤ s.len → s.len ≤ 7 →
    exec (.rxbyte b) s = .next { s with buf := s.buf ++ [b] } ∧
    (∀ t, exec (.rxbyte b) s = .next t → t.len = s.len + 1 ∧ 2 ≤ t.len ∧ t.len ≤ 8)

/-- R56: the append is the only store: one cell at offset `len`, every other cell reads as before; the load at completion
reads the nine cells. -/
def Obligations.AppendWritesOneCell : Prop :=
  (∀ (s t : State) (b : Byte), s.fault = false → s.connected = true → s.len ≤ 7 → (s.len = 0 → b = 0xFF#8) →
    exec (.rxbyte b) s = .next t →
    Memory.readByte t.buf s.len = some b ∧
    (∀ a : Nat, a ≠ s.len → Memory.readByte t.buf a = Memory.readByte s.buf a) ∧ t.len = s.len + 1) ∧
  (∀ (s t : State) (b : Byte), s.fault = false → s.connected = true → s.len = 8 →
    exec (.rxbyte b) s = .next t →
    t.buf = [] ∧ ∃ f, Memory.read (Memory.append s.buf b) 0 9 = some f ∧ Out.frameDone f ∈ t.out)

/-- R104: the ninth byte completes the frame: recorded, the buffer cleared whatever the decoder then does, and the decoder
run in the same step. -/
def Obligations.NinthByteCompletesFrame : Prop :=
  ∀ (s : State) (b : Byte), s.fault = false → s.connected = true → s.len = 8 → s.buf.head? = some 0xFF#8 →
    exec (.rxbyte b) s = .next (decodeFrame Config.countWidth (s.buf ++ [b])
      { s with buf := [], out := s.out ++ [.frameDone (s.buf ++ [b])] }) ∧
    (∀ t, exec (.rxbyte b) s = .next t →
      t.buf = [] ∧ t.connected = true ∧ t.fault = false ∧ t.inbox = s.inbox)

/-- R26, which the spec marks as its own inference from R101 to R104: how the frame position `len`
moves, for every event. -/
def Obligations.FramePositionAdvancesAsStated : Prop :=
  ∀ (s t : State) (E : EventWord), s.len ≤ 8 → step (present E s) = .next t →
    t.len ≤ 8 ∧
    (decodeEvent E = .rst → t.len = 0) ∧
    (decodeEvent E ≠ .rst → s.fault = true → t.len = s.len) ∧
    (decodeEvent E = .linkdown → s.fault = false → t.len = 0) ∧
    (decodeEvent E = .linkup → s.fault = false → t.len = 0) ∧
    (decodeEvent E = .nop → t.len = s.len) ∧
    (∀ b : Byte, decodeEvent E = .rxbyte b →
      (s.connected = false → t.len = s.len) ∧
      (s.connected = true → s.fault = false →
        (s.len = 0 → t.len = if b = 0xFF#8 then 1 else 0) ∧
        (1 ≤ s.len → s.len ≤ 7 → t.len = s.len + 1) ∧
        (s.len = 8 → t.len = 0)))

/-- R108, which the spec marks as its own inference from R101 to R104: every byte fed in a connection is
discarded, or in a frame, or still in the buffer. -/
def Obligations.EveryByteIsAccountedFor : Prop :=
  ∀ (s : State) (bytes : List Byte), s.connected = true → s.fault = false → Memory.wf s.buf = true →
    s.len + bytes.length =
      (discardedIn (feed bytes s).2).length + 9 * (framesIn (feed bytes s).2).length + (feed bytes s).1.len

/-- R107, which the spec marks as its own inference from R100 and R172: feeding a concatenation is feeding the
parts in turn, and NOPs anywhere change neither the state nor the outputs. -/
def Obligations.ChunkingIsInvisible : Prop :=
  (∀ (s : State) (u v : List Byte),
    (feed (u ++ v) s).1 = (feed v (feed u s).1).1 ∧ (feed (u ++ v) s).2 = (feed u s).2 ++ (feed v (feed u s).1).2) ∧
  (∀ (evs : List EventWord) (s : State),
    sameBlock (runEvents evs s).1 (runEvents (evs.filter fun E => !isNop E) s).1 ∧
    (runEvents evs s).2 = (runEvents (evs.filter fun E => !isNop E) s).2)

/-- R109, R196, which the spec marks as its own inference: in every run from a state of the invariant each frame
has nine bytes and begins with the start marker, and the fatal check never fires. -/
def Obligations.EmittedFramesAreWellShaped : Prop :=
  ∀ (s : State) (evs : List EventWord), BlockInv s →
    (∀ f ∈ framesIn (runEvents evs s).2, f.length = 9 ∧ f.head? = some 0xFF#8) ∧
    (runEvents evs s).1.fault = false ∧ ∀ code, Out.fault code ∉ (runEvents evs s).2

/-- R110: noise without a start marker, then a valid `0x86` frame: the noise is discarded and the frame decoded. -/
def Obligations.NoiseThenFrameResynchronises : Prop :=
  ∀ (s : State) (noise : List Byte) (f : Frame) (m : Measurement),
    s.connected = true → s.fault = false → s.buf = [] → (∀ b ∈ noise, b ≠ 0xFF#8) →
    validCo2 (frameBytes f) = some m →
    (feed (noise ++ frameBytes f) s).2 = noise.map Out.discarded ++
      [.frameDone (frameBytes f), .decoded m.ppm m.temperatureCelsius (min (s.count + 1) 255)] ++
      (if 19 ≤ s.count then [.report m.ppm m.temperatureCelsius] else []) ∧
    (feed (noise ++ frameBytes f) s).1.buf = [] ∧
    (feed (noise ++ frameBytes f) s).1.count = min (s.count + 1) 255

/-- R235: a sender that repeats a valid frame whose checksum byte is `0xFF`, and a block that started at a checksum byte:
for every number of repeats each window is a valid frame of command `0xFF`, nothing is decoded, nothing reaches `ext` or
`diag`, and the block is where it was. -/
def Obligations.SilentMisalignmentPersists : Prop :=
  ∀ (s : State) (f : Frame) (n : Nat),
    s.connected = true → s.fault = false → s.buf = [0xFF#8] →
    f.start = 0xFF#8 → f.cks = 0xFF#8 → validate f = .valid f →
    sameBlock (runEvents (stimRep n (stimRxs (frameBytes f))) s).1 s ∧
    (runEvents (stimRep n (stimRxs (frameBytes f))) s).2 =
      (List.replicate n [Out.frameDone (0xFF#8 :: (frameBytes f).take 8), Out.ignored 0xFF#8]).flatten ∧
    extDiag (runEvents (stimRep n (stimRxs (frameBytes f))) s).2 = []

/-! ### The checksum -/

/-- R120: the formula, the bytes it does not look at, and the corners of the sum. -/
def Obligations.ChecksumFollowsFormula : Prop :=
  ∀ f : Frame,
    (checksum f).toNat = (0xFF - (f.cmd.toNat + f.d0.toNat + f.d1.toNat + f.d2.toNat + f.d3.toNat + f.d4.toNat +
      f.d5.toNat) % 256 + 1) % 256 ∧
    (∀ x k : Byte, checksum { f with start := x, cks := k } = checksum f) ∧
    (checksumSum f = 0x00 → checksum f = 0x00#8) ∧ (checksumSum f = 0x01 → checksum f = 0xFF#8) ∧
    (checksumSum f = 0xFF → checksum f = 0x01#8) ∧ (checksumSum f = 0x80 → checksum f = 0x80#8) ∧
    (f.cmd + f.d0 + f.d1 + f.d2 + f.d3 + f.d4 + f.d5).toNat = checksumSum f ∧
    checksum ⟨0xFF#8, 0x01#8, 0x86#8, 0x00#8, 0x00#8, 0x00#8, 0x00#8, 0x00#8, f.cks⟩ = 0x79#8

/-- R121, which the spec marks as its own inference from R120: the equivalent forms (a), (b) and (c). -/
def Obligations.ChecksumEquivalentForms : Prop :=
  ∀ f : Frame,
    ((checksum f).toNat = (256 - checksumSum f) % 256 ∧ checksum f = -(BitVec.ofNat 8 (checksumSum f))) ∧
    checksum f = (BitVec.ofNat 8 (checksumSum f) ^^^ 0xFF#8) + 1#8 ∧
    (validate f = .valid f ↔ checksumValid f)

/-- R122: the comparison, on all 8 bits. That `expected` is the computed and `actual` the received byte is the spec's own
reading, which R122 says in its last sentences (decision D12). -/
def Obligations.ValidateComparesExactly : Prop :=
  ∀ f : Frame,
    (checksum f = f.cks → validate f = .valid f) ∧
    (checksum f ≠ f.cks → validate f = .invalid (checksum f) f.cks) ∧
    (∀ g, validate f = .valid g → g = f ∧ checksum f = f.cks) ∧
    validate ⟨0xFF#8, 0x86#8, 0x01#8, 0xF4#8, 0x28#8, 0x00#8, 0x00#8, 0x00#8, 0x5E#8⟩ = .invalid 0x5D#8 0x5E#8

/-- R124, which the spec marks as its own inference from R120 and R122: a body with its own checksum always
validates. -/
def Obligations.ChecksumRoundTrip : Prop :=
  ∀ p1 p2 p3 p4 p5 p6 p7 x : Byte,
    validate ⟨0xFF#8, p1, p2, p3, p4, p5, p6, p7, checksum ⟨0xFF#8, p1, p2, p3, p4, p5, p6, p7, x⟩⟩ =
      .valid ⟨0xFF#8, p1, p2, p3, p4, p5, p6, p7, checksum ⟨0xFF#8, p1, p2, p3, p4, p5, p6, p7, x⟩⟩

/-- R125, which the spec marks as its own inference from R122: exactly one checksum byte is valid for a frame, and a
frame whose checksum is off by one is logged and not decoded. -/
def Obligations.ExactlyOneChecksumByteIsValid : Prop :=
  (∀ f : Frame, ∃ k : Byte, ∀ x : Byte,
    validate { f with cks := x } = .valid { f with cks := x } ↔ x = k) ∧
  (∀ (s : State) (f : Frame) (d : Byte), s.connected = true → s.fault = false → s.buf = [] →
    f.start = 0xFF#8 → validate f = .valid f → d = 1#8 ∨ d = 0xFF#8 →
    (feed (frameBytes { f with cks := f.cks + d }) s).2 =
      [.frameDone (frameBytes { f with cks := f.cks + d }), .checksumMismatch f.cks (f.cks + d)] ∧
    sameBlock (feed (frameBytes { f with cks := f.cks + d }) s).1 s)

/-- R126, which the spec marks as its own inference from R121: what the checksum catches (a change of any one byte of
offsets 1 to 8) and what it does not (two changes that cancel, at any two different offsets of 1 to 8, a reordering of
offsets 1 to 7, a change of offset 0). -/
def Obligations.ChecksumCatchesSingleByteErrors : Prop :=
  (∀ (f g : Frame) (k : Nat) (v : Byte), checksumValid f → 1 ≤ k → k ≤ 8 →
    (frameBytes f)[k]? ≠ some v → frameOfBytes? ((frameBytes f).set k v) = some g → ¬ checksumValid g) ∧
  (∀ f g : Frame, (((frameBytes f).drop 1).take 7).Perm (((frameBytes g).drop 1).take 7) →
    f.cks = g.cks → checksumValid f → checksumValid g) ∧
  (∀ (f g : Frame) (i j : Nat) (x y d : Byte), checksumValid f → 1 ≤ i → i ≤ 8 → 1 ≤ j → j ≤ 8 → i ≠ j →
    (frameBytes f)[i]? = some x → (frameBytes f)[j]? = some y →
    frameOfBytes? (((frameBytes f).set i (x + d)).set j (y - d)) = some g → checksumValid g) ∧
  (∀ (f : Frame) (x : Byte), checksumValid f → checksumValid { f with start := x })

/-! ### The packet decoder -/

/-- R135: a value of another length, or not beginning with the start marker, sets `fault` and records code 5, and nothing
else; any other value goes on to the checksum. -/
def Obligations.DecoderChecksFrameShape : Prop :=
  ∀ (W : CounterWidth) (bytes : List Byte) (s : State),
    (bytes.length ≠ 9 ∨ bytes.head? ≠ some 0xFF#8 →
      decodeFrame W bytes s = { s with fault := true, out := s.out ++ [.fault 5] }) ∧
    (bytes.length = 9 → bytes.head? = some 0xFF#8 →
      ∃ f : Frame, frameBytes f = bytes ∧ decodeFrame W bytes s = decodeChecked W f s)

/-- R136: first the checksum, then the command, and the command only if the checksum was valid. What a completing byte does
to the whole state in each case, a frame that does not pass R135 included. -/
def Obligations.FirstFailingCheckDecides : Prop :=
  ∀ (s : State) (b : Byte), s.fault = false → s.connected = true → s.len = 8 →
    (∀ bytes, bytes = s.buf ++ [b] → bytes.head? ≠ some 0xFF#8 →
      exec (.rxbyte b) s = .next { s with buf := [], fault := true, out := s.out ++ [.frameDone bytes, .fault 5] }) ∧
    (∀ f : Frame, frameBytes f = s.buf ++ [b] → f.start = 0xFF#8 →
      (checksum f ≠ f.cks → exec (.rxbyte b) s = .next { s with
        buf := []
        out := s.out ++ [.frameDone (frameBytes f), .checksumMismatch (checksum f) f.cks] }) ∧
      (checksum f = f.cks → f.cmd ≠ 0x86#8 → exec (.rxbyte b) s = .next { s with
        buf := []
        out := s.out ++ [.frameDone (frameBytes f), .ignored f.cmd] }) ∧
      (checksum f = f.cks → f.cmd = 0x86#8 → exec (.rxbyte b) s =
        .next (readCo2 Config.countWidth f { s with buf := [], out := s.out ++ [.frameDone (frameBytes f)] })))

/-- R137, R150, R151: the whole effect of a valid `0x86` frame: the decoded values, the count, the trace record, the report
from the 20th on, and nothing else. -/
def Obligations.ReadCo2DecodesCountsAndGates : Prop :=
  ∀ (s : State) (hi lo tt rh rl r8 k : Byte), s.fault = false →
    checksum ⟨0xFF#8, 0x86#8, hi, lo, tt, rh, rl, r8, k⟩ = k →
    ∀ (p n : Nat) (c : Int), p = 256 * hi.toNat + lo.toNat → c = (tt.toNat : Int) - 40 → n = min (s.count + 1) 255 →
      exec (.readCo2 hi lo tt rh rl r8 k) s = .next { s with
        count := n
        out := s.out ++ [.decoded p c n] ++ (if 20 ≤ n then [.report p c] else []) } ∧
      p ≤ 65535 ∧ -40 ≤ c ∧ c ≤ 215 ∧
      (∀ t, exec (.readCo2 hi lo tt rh rl r8 k) s = .next t → ready t = (s.connected && decide (20 ≤ n)))

/-- R138: the whole effect of a valid frame of any other command: one trace record. -/
def Obligations.UnknownCommandIsIgnored : Prop :=
  ∀ (s : State) (cmd d0 d1 d2 d3 d4 d5 k : Byte), s.fault = false → cmd ≠ 0x86#8 →
    checksum ⟨0xFF#8, cmd, d0, d1, d2, d3, d4, d5, k⟩ = k →
    exec (.unknownCmd cmd d0 d1 d2 d3 d4 d5 k) s = .next { s with out := s.out ++ [.ignored cmd] }

/-- R80: the poll request, received, is a valid frame of unknown command `0x01`. -/
def Obligations.ReceivedPollRequestIsIgnored : Prop :=
  (∀ s : State, s.fault = false → exec .pollReadCo2 s = .next { s with out := s.out ++ [.ignored 0x01#8] }) ∧
  (∀ s : State, exec .pollReadCo2 s =
    exec (.unknownCmd 0x01#8 0x86#8 0x00#8 0x00#8 0x00#8 0x00#8 0x00#8 0x79#8) s) ∧
  validCo2 Config.pollRequest = none

/-- R123 on the frame classes run on their own (log entries 9, 11: the model's choice): a wrong checksum byte gives the
diagnostic and nothing else, whatever the command. -/
def Obligations.FrameClassWithBadChecksumOnlyLogs : Prop :=
  (∀ (s : State) (hi lo tt rh rl r8 k e : Byte), s.fault = false →
    e = checksum ⟨0xFF#8, 0x86#8, hi, lo, tt, rh, rl, r8, k⟩ → e ≠ k →
    exec (.readCo2 hi lo tt rh rl r8 k) s = .next { s with out := s.out ++ [.checksumMismatch e k] }) ∧
  (∀ (s : State) (cmd d0 d1 d2 d3 d4 d5 k e : Byte), s.fault = false →
    e = checksum ⟨0xFF#8, cmd, d0, d1, d2, d3, d4, d5, k⟩ → e ≠ k →
    exec (.unknownCmd cmd d0 d1 d2 d3 d4 d5 k) s = .next { s with out := s.out ++ [.checksumMismatch e k] })

/-- R86: a completing byte runs the frame class its nine bytes decode to, on the cleared buffer, after the record of the
frame. -/
def Obligations.CompletingByteRunsItsFrameClass : Prop :=
  ∀ (s : State) (b : Byte), s.fault = false → s.connected = true → s.len = 8 → s.buf.head? = some 0xFF#8 →
    ∃ i : Instr, i.wellFormed = true ∧ decode (.frame (s.buf ++ [b])) = .ok i ∧
      exec (.rxbyte b) s = exec i { s with buf := [], out := s.out ++ [.frameDone (s.buf ++ [b])] }

/-- R195, R201: once faulted, nothing but RST has any effect, over any run without one. -/
def Obligations.FaultIsStuckUntilReset : Prop :=
  ∀ (s : State) (evs : List EventWord), s.fault = true → (∀ E ∈ evs, decodeEvent E ≠ .rst) →
    sameBlock (runEvents evs s).1 s ∧ (runEvents evs s).2 = []

/-! ### The stabilizer -/

/-- R157, which the spec marks as its own inference from R150 to R153: in a connection that begins with `count = 0`, the reports are the measurements of the valid `0x86` frames from
the 20th on, in order, and so `max(0, n - 19)` of them. -/
def Obligations.ReportsAreValidFramesFromTheTwentieth : Prop :=
  ∀ (s : State) (evs : List EventWord), s.connected = true → s.fault = false → s.count = 0 →
    Memory.wf s.buf = true → (∀ E ∈ evs, keepsConnection E = true) →
    reportsIn (runEvents evs s).2 = ((framesIn (runEvents evs s).2).filterMap validCo2).drop 19 ∧
    (reportsIn (runEvents evs s).2).length = ((framesIn (runEvents evs s).2).filterMap validCo2).length - 19

/-- R158, which the spec marks as its own inference from R151 and R154: at every counter width of 5 bits or more the
`ext` and `diag` outputs are those of the unbounded counter. -/
def Obligations.CounterWidthIsInvisible : Prop :=
  ∀ (W : Nat) (evs : List EventWord), 5 ≤ W →
    extDiag (runAt (.bits W) evs State.reset).2 = extDiag (runAt .unbounded evs State.reset).2

/-- R153, which the spec marks as its own inference from R150, R123 and R138: within a connection the count moves
exactly when a valid `0x86` frame completes. -/
def Obligations.OnlyValidCo2FramesCount : Prop :=
  ∀ (s t : State) (E : EventWord), keepsConnection E = true → step (present E s) = .next t →
    ((framesIn t.out).filterMap validCo2 = [] → t.count = s.count) ∧
    ((framesIn t.out).filterMap validCo2 ≠ [] → t.count = min (s.count + 1) 255)

/-- R28, R154: within a connection the count never falls and never passes 255. -/
def Obligations.CountNeverFallsWithinConnection : Prop :=
  ∀ (s : State) (evs : List EventWord), s.count ≤ 255 → (∀ E ∈ evs, keepsConnection E = true) →
    s.count ≤ (runEvents evs s).1.count ∧ (runEvents evs s).1.count ≤ 255

/-- R152: a valid `0x86` frame is reported exactly when the count before it is 19 or more. -/
def Obligations.TwentiethFrameIsFirstReported : Prop :=
  ∀ (s : State) (hi lo tt rh rl r8 k : Byte), s.fault = false → s.out = [] →
    checksum ⟨0xFF#8, 0x86#8, hi, lo, tt, rh, rl, r8, k⟩ = k →
    ∃ t, exec (.readCo2 hi lo tt rh rl r8 k) s = .next t ∧
      (19 ≤ s.count → reportsIn t.out = [⟨256 * hi.toNat + lo.toNat, (tt.toNat : Int) - 40⟩]) ∧
      (s.count < 19 → reportsIn t.out = [])

/-- R155: after a link loss and a new link, another 20 valid frames are needed before measurements resume, whatever state
the first connection had reached and whatever bytes came in between. -/
def Obligations.ReconnectionRestartsWarmUp : Prop :=
  ∀ (s : State) (D U : EventWord) (between evs : List EventWord), s.fault = false →
    decodeEvent D = .linkdown → decodeEvent U = .linkup →
    (∀ E ∈ between, keepsConnection E = true) → (∀ E ∈ evs, keepsConnection E = true) →
    reportsIn (runEvents (D :: between ++ U :: evs) s).2 =
      ((framesIn (runEvents (D :: between ++ U :: evs) s).2).filterMap validCo2).drop 19

/-- R156, which the spec marks as its own inference from R150, R151 and R155: the connection's state machine, row by
row, with what goes to `ext`. -/
def Obligations.ConnectionStateMachine : Prop :=
  ∀ (s t : State) (E : EventWord), BlockInv s → step (present E s) = .next t →
    (s.connected = true → keepsConnection E = true → (framesIn t.out).filterMap validCo2 = [] →
      modeOf t = modeOf s ∧ t.count = s.count ∧ reportsIn t.out = []) ∧
    (∀ m, s.connected = true → (framesIn t.out).filterMap validCo2 = [m] →
      t.count = min (s.count + 1) 255 ∧
      (s.count ≤ 18 → modeOf t = .ready ∧ reportsIn t.out = []) ∧
      (19 ≤ s.count → modeOf t = .reporting ∧ reportsIn t.out = [m])) ∧
    ((framesIn t.out).filterMap validCo2 = [] ∨ ∃ m, (framesIn t.out).filterMap validCo2 = [m]) ∧
    (decodeEvent E = .linkdown → modeOf t = .disconnected ∧ reportsIn t.out = []) ∧
    (decodeEvent E = .linkup → modeOf t = .ready ∧ t.count = 0 ∧ reportsIn t.out = [])

/-! ### The machine as a whole -/

/-- R31: what sets and clears the two stored flags, and what the derived one is. `fault` rises only in the step of a byte
that completes a value in a live connection, and only if that value fails the check of R135. -/
def Obligations.FlagsChangeOnlyAsStated : Prop :=
  ∀ (s t : State) (E : EventWord), step (present E s) = .next t →
    (s.connected = false → t.connected = true → decodeEvent E = .linkup) ∧
    (s.connected = true → t.connected = false → decodeEvent E = .linkdown ∨ decodeEvent E = .rst) ∧
    (s.fault = true → t.fault = false → decodeEvent E = .rst) ∧
    (s.fault = false → t.fault = true → ∃ b, decodeEvent E = .rxbyte b ∧ s.connected = true ∧ 8 ≤ s.len ∧
      Out.frameDone (s.buf ++ [b]) ∈ t.out ∧
      ((s.buf ++ [b]).length ≠ 9 ∨ (s.buf ++ [b]).head? ≠ some 0xFF#8)) ∧
    (decodeEvent E = .rst → t.connected = false ∧ t.fault = false) ∧
    (decodeEvent E = .linkup → s.fault = false → t.connected = true) ∧
    (decodeEvent E = .linkdown → s.fault = false → t.connected = false) ∧
    (ready t = true ↔ t.connected = true ∧ 20 ≤ t.count)

/-- R22, R24, R27, R109: every step keeps the invariant. -/
def Obligations.StepKeepsInvariant : Prop :=
  ∀ s t : State, BlockInv s → step s = .next t → BlockInv t

/-- The reset state meets the invariant. -/
def Obligations.ResetMeetsInvariant : Prop := BlockInv State.reset

/-- R203: every report is the measurement of the valid `0x86` frame that this step's byte completes, in a connection that
has now had at least 20 of them, and is the only report of its step. -/
def Obligations.EveryReportIsTrusted : Prop :=
  ∀ (s t : State) (E : EventWord) (m : Measurement), step (present E s) = .next t →
    m ∈ reportsIn t.out →
    s.connected = true ∧ s.fault = false ∧ s.len = 8 ∧ 19 ≤ s.count ∧ 20 ≤ t.count ∧ reportsIn t.out = [m] ∧
    ∃ b, decodeEvent E = .rxbyte b ∧ validCo2 (s.buf ++ [b]) = some m

/-- R61, R81: the shapes of a step's output list, so its order; at most one `ext` record, at most one `diag` record, never
both. -/
def Obligations.StepOutputsHaveStatedShapes : Prop :=
  ∀ (s t : State) (E : EventWord), step (present E s) = .next t →
    (t.out = [] ∨ t.out = [.linkUp] ∨ t.out = [.linkLost] ∨ (∃ b, t.out = [.discarded b]) ∨
      (∃ f, t.out = [.frameDone f, .fault 5]) ∨
      (∃ f e a, t.out = [.frameDone f, .checksumMismatch e a]) ∨
      (∃ f c, t.out = [.frameDone f, .ignored c]) ∨
      (∃ f p c n, t.out = [.frameDone f, .decoded p c n]) ∨
      (∃ f p c n, t.out = [.frameDone f, .decoded p c n, .report p c])) ∧
    (extDiag t.out).length ≤ 1

/-- R58, R207: outputs are appended and never read: what was output before, and what is still to come on the input,
changes neither the next state nor the new records. -/
def Obligations.OutputsNeverInfluenceBehaviour : Prop :=
  ∀ (i : Instr) (s t : State), exec i s = .next t →
    t.inbox = s.inbox ∧ ∃ d : List Out, t.out = s.out ++ d ∧
      ∀ (o : List Out) (q : List EventWord),
        exec i { s with out := o, inbox := q } = .next { t with out := o ++ d, inbox := q }

/-! ### The ports -/

/-- R31, R34, R88: the status ports follow the state. -/
def Obligations.StatusPortsShowTheState : Prop :=
  ∀ (cycle : Nat) (s : State),
    (portsOf cycle s).connected = s.connected ∧ (portsOf cycle s).fault = s.fault ∧
    ((portsOf cycle s).ready = true ↔ s.connected = true ∧ 20 ≤ s.count) ∧
    (s.len ≤ 8 → (portsOf cycle s).dbgLen.toNat = s.len) ∧
    (s.count ≤ 255 → (portsOf cycle s).dbgCount.toNat = s.count)

/-- R77, R88, R200: the three pulses. In the cycle of a report, and in no other, the report ports are valid and carry its
values, the temperature in two's complement; in the cycle of a mismatch, and in no other, `csum_err` is set and both bytes
are shown; never both in one cycle. `tr_kind` names the cycle's trace record by R88's table; `tr_frame` shows the completed
frame, in the model's choice of byte order (log entry 24), and `tr_byte` the discarded byte or the ignored command. Nothing
is said of a data port whose valid signal is 0 (log entry 16). -/
def Obligations.PulsePortsCarryTheRecords : Prop :=
  ∀ (cycle : Nat) (s t : State) (E : EventWord), step (present E s) = .next t →
    ((portsOf cycle t).reportValid = true ↔ reportsIn t.out ≠ []) ∧
    (∀ m, m ∈ reportsIn t.out → (portsOf cycle t).reportPpm.toNat = m.ppm ∧
      (portsOf cycle t).reportTemp.toInt = m.temperatureCelsius) ∧
    ((portsOf cycle t).csumErr = true ↔ ∃ e a, Out.checksumMismatch e a ∈ t.out) ∧
    (∀ e a, Out.checksumMismatch e a ∈ t.out → (portsOf cycle t).csumExpected = e ∧
      (portsOf cycle t).csumActual = a ∧ (portsOf cycle t).trKind = 1#3) ∧
    ((portsOf cycle t).reportValid && (portsOf cycle t).csumErr) = false ∧
    ((portsOf cycle t).trKind = 0#3 ↔ ∀ o ∈ t.out, channelOf o ≠ .trace) ∧
    ((portsOf cycle t).trKind = 1#3 ↔ (∃ f, Out.frameDone f ∈ t.out) ∧
      ∀ o ∈ t.out, channelOf o = .trace → ∃ f, o = Out.frameDone f) ∧
    ((portsOf cycle t).trKind = 2#3 ↔ ∃ p c n, Out.decoded p c n ∈ t.out) ∧
    ((portsOf cycle t).trKind = 3#3 ↔ ∃ c, Out.ignored c ∈ t.out) ∧
    ((portsOf cycle t).trKind = 4#3 ↔ ∃ b, Out.discarded b ∈ t.out) ∧
    ((portsOf cycle t).trKind = 5#3 ↔ Out.linkUp ∈ t.out) ∧
    ((portsOf cycle t).trKind = 6#3 ↔ Out.linkLost ∈ t.out) ∧
    ((portsOf cycle t).trKind = 7#3 ↔ ∃ code, Out.fault code ∈ t.out) ∧
    ((∃ f, Out.frameDone f ∈ t.out) ↔ (portsOf cycle t).trKind ∈ [1#3, 2#3, 3#3, 7#3]) ∧
    (∀ f, Out.frameDone f ∈ t.out → f.length = 9 → bytesOfFrameWord (portsOf cycle t).trFrame = f) ∧
    (∀ b, Out.discarded b ∈ t.out → (portsOf cycle t).trByte = b) ∧
    (∀ c, Out.ignored c ∈ t.out → (portsOf cycle t).trByte = c)
end

