-- ==== Sys2Proof/Laws/Memory.lean ====
section
/-! SUPPORT. The frame buffer: what is read back, and that every operation keeps its form. -/

namespace Sys2Proof.Machine

theorem Memory.wf_iff (m : Memory) :
    Memory.wf m = true ↔ m.length ≤ 8 ∧ (m = [] ∨ m.head? = some Config.startMarker) := by
  cases m <;> simp [Memory.wf]

@[simp] theorem Memory.wf_cleared : Memory.wf Memory.cleared = true := rfl

@[simp] theorem Memory.wf_nil : Memory.wf ([] : Memory) = true := rfl

/-- START leaves the buffer in order. -/
theorem Memory.wf_start {b : Byte} (h : b = Config.startMarker) : Memory.wf ([b] : Memory) = true := by
  subst h; rfl

/-- APPEND to a started frame with room keeps the buffer in order. -/
theorem Memory.wf_append {m : Memory} (b : Byte) (h : Memory.wf m = true) (h1 : 1 ≤ m.length) (h7 : m.length ≤ 7) :
    Memory.wf (Memory.append m b) = true := by
  cases m with
  | nil => simp at h1
  | cons a m => simp [Memory.wf, Memory.append] at *; exact ⟨by omega, h.2⟩

theorem Memory.wf_reset : Memory.wf State.reset.buf = true := rfl

/-- The byte appended is read back at offset `len`. -/
@[simp] theorem Memory.readByte_append_self (m : Memory) (b : Byte) :
    Memory.readByte (Memory.append m b) m.length = some b := by
  simp [Memory.readByte, Memory.append]

/-- Every other cell reads as before. -/
theorem Memory.readByte_append_ne (m : Memory) (b : Byte) {a : Nat} (h : a ≠ m.length) :
    Memory.readByte (Memory.append m b) a = Memory.readByte m a := by
  simp only [Memory.readByte, Memory.append, List.getElem?_append]
  split
  · rfl
  · rw [List.getElem?_eq_none (by simp; omega), List.getElem?_eq_none (by omega)]

/-- The load at completion, `MemRead(0, 9)`, reads the buffer and the ninth byte (R56). -/
theorem Memory.read_frame {m : Memory} (b : Byte) (h : m.length = 8) :
    Memory.read (Memory.append m b) 0 9 = some (m ++ [b]) := by
  have hl : (m ++ [b]).length = 9 := by simp [h]
  simp only [Memory.read, Memory.append, hl, List.drop_zero]
  rw [List.take_of_length_le (by omega)]
  rfl

end Sys2Proof.Machine
end

