-- ==== Sys2Proof/Laws/State.lean ====
section
/-! SUPPORT. One lemma per field per update of the state. -/

namespace Sys2Proof.Machine

@[simp] theorem emit_connected (o : Out) (s : State) : (emit o s).connected = s.connected := rfl
@[simp] theorem emit_buf (o : Out) (s : State) : (emit o s).buf = s.buf := rfl
@[simp] theorem emit_count (o : Out) (s : State) : (emit o s).count = s.count := rfl
@[simp] theorem emit_fault (o : Out) (s : State) : (emit o s).fault = s.fault := rfl
@[simp] theorem emit_inbox (o : Out) (s : State) : (emit o s).inbox = s.inbox := rfl
@[simp] theorem emit_out (o : Out) (s : State) : (emit o s).out = s.out ++ [o] := rfl

@[simp] theorem dropConnection_connected (s : State) : (dropConnection s).connected = false := rfl
@[simp] theorem dropConnection_buf (s : State) : (dropConnection s).buf = [] := rfl
@[simp] theorem dropConnection_count (s : State) : (dropConnection s).count = 0 := rfl
@[simp] theorem dropConnection_fault (s : State) : (dropConnection s).fault = s.fault := rfl
@[simp] theorem dropConnection_inbox (s : State) : (dropConnection s).inbox = s.inbox := rfl
@[simp] theorem dropConnection_out (s : State) : (dropConnection s).out = s.out := rfl

@[simp] theorem openConnection_connected (s : State) : (openConnection s).connected = true := rfl
@[simp] theorem openConnection_buf (s : State) : (openConnection s).buf = [] := rfl
@[simp] theorem openConnection_count (s : State) : (openConnection s).count = 0 := rfl
@[simp] theorem openConnection_fault (s : State) : (openConnection s).fault = s.fault := rfl
@[simp] theorem openConnection_inbox (s : State) : (openConnection s).inbox = s.inbox := rfl
@[simp] theorem openConnection_out (s : State) : (openConnection s).out = s.out := rfl

@[simp] theorem resetBlock_connected (s : State) : (resetBlock s).connected = false := rfl
@[simp] theorem resetBlock_buf (s : State) : (resetBlock s).buf = [] := rfl
@[simp] theorem resetBlock_count (s : State) : (resetBlock s).count = 0 := rfl
@[simp] theorem resetBlock_fault (s : State) : (resetBlock s).fault = false := rfl
@[simp] theorem resetBlock_inbox (s : State) : (resetBlock s).inbox = s.inbox := rfl
@[simp] theorem resetBlock_out (s : State) : (resetBlock s).out = s.out := rfl

@[simp] theorem startFrame_connected (b : Byte) (s : State) : (startFrame b s).connected = s.connected := rfl
@[simp] theorem startFrame_buf (b : Byte) (s : State) : (startFrame b s).buf = [b] := rfl
@[simp] theorem startFrame_count (b : Byte) (s : State) : (startFrame b s).count = s.count := rfl
@[simp] theorem startFrame_fault (b : Byte) (s : State) : (startFrame b s).fault = s.fault := rfl
@[simp] theorem startFrame_inbox (b : Byte) (s : State) : (startFrame b s).inbox = s.inbox := rfl
@[simp] theorem startFrame_out (b : Byte) (s : State) : (startFrame b s).out = s.out := rfl

@[simp] theorem appendByte_connected (b : Byte) (s : State) : (appendByte b s).connected = s.connected := rfl
@[simp] theorem appendByte_buf (b : Byte) (s : State) : (appendByte b s).buf = s.buf ++ [b] := rfl
@[simp] theorem appendByte_count (b : Byte) (s : State) : (appendByte b s).count = s.count := rfl
@[simp] theorem appendByte_fault (b : Byte) (s : State) : (appendByte b s).fault = s.fault := rfl
@[simp] theorem appendByte_inbox (b : Byte) (s : State) : (appendByte b s).inbox = s.inbox := rfl
@[simp] theorem appendByte_out (b : Byte) (s : State) : (appendByte b s).out = s.out := rfl

@[simp] theorem takeEvent_connected (s : State) : (takeEvent s).connected = s.connected := rfl
@[simp] theorem takeEvent_buf (s : State) : (takeEvent s).buf = s.buf := rfl
@[simp] theorem takeEvent_count (s : State) : (takeEvent s).count = s.count := rfl
@[simp] theorem takeEvent_fault (s : State) : (takeEvent s).fault = s.fault := rfl
@[simp] theorem takeEvent_inbox (s : State) : (takeEvent s).inbox = s.inbox.tail := rfl
@[simp] theorem takeEvent_out (s : State) : (takeEvent s).out = [] := rfl

@[simp] theorem nextEvent_present (E : EventWord) (s : State) : nextEvent (present E s) = E := rfl
@[simp] theorem takeEvent_present (E : EventWord) (s : State) :
    takeEvent (present E s) = { s with out := [] } := rfl

theorem sameBlock_refl (s : State) : sameBlock s s := ⟨rfl, rfl, rfl, rfl⟩

theorem sameBlock_symm {s t : State} (h : sameBlock s t) : sameBlock t s :=
  ⟨h.1.symm, h.2.1.symm, h.2.2.1.symm, h.2.2.2.symm⟩

theorem sameBlock_trans {s t u : State} (h : sameBlock s t) (k : sameBlock t u) : sameBlock s u :=
  ⟨h.1.trans k.1, h.2.1.trans k.2.1, h.2.2.1.trans k.2.2.1, h.2.2.2.trans k.2.2.2⟩

end Sys2Proof.Machine
end

