-- ==== Sys2Proof/Laws/Ops.lean ====
section
/-! SUPPORT. One lemma per shared operation that says once what it can do. -/

namespace Sys2Proof.Machine

/-! ### Frames -/

@[simp] theorem frameOfBytes?_frameBytes (f : Frame) : frameOfBytes? (frameBytes f) = some f := rfl

theorem frameOfBytes?_eq_some {bytes : List Byte} {f : Frame} (h : frameOfBytes? bytes = some f) :
    frameBytes f = bytes := by
  unfold frameOfBytes? at h
  split at h
  · cases h; rfl
  · cases h

/-- Nine bytes are a frame, and nothing else is (R83). -/
theorem exists_frame_of_length {bytes : List Byte} (h : bytes.length = 9) : ∃ f : Frame, frameBytes f = bytes := by
  match bytes, h with
  | [a, b, c, d, e, f, g, i, k], _ => exact ⟨⟨a, b, c, d, e, f, g, i, k⟩, rfl⟩

theorem frameOfBytes?_eq_none_iff (bytes : List Byte) : frameOfBytes? bytes = none ↔ bytes.length ≠ 9 := by
  constructor
  · intro h h9
    obtain ⟨f, rfl⟩ := exists_frame_of_length h9
    simp at h
  · intro h
    cases hf : frameOfBytes? bytes with
    | none => rfl
    | some f => rw [← frameOfBytes?_eq_some hf] at h; simp [frameBytes] at h

/-! ### The checksum -/

/-- The verdict, by the comparison it rests on (R122). -/
theorem validate_eq (f : Frame) :
    validate f = if checksum f = f.cks then .valid f else .invalid (checksum f) f.cks := rfl

theorem validate_valid_iff (f g : Frame) : validate f = .valid g ↔ g = f ∧ checksum f = f.cks := by
  rw [validate_eq]; split <;> simp_all [eq_comm]

/-! ### The stabilizer -/

/-- Everything the stabilizer does: the new count, the trace record, the report from the threshold on (R150, R151). -/
theorem stabilize_eq (W : CounterWidth) (m : Measurement) (s : State) :
    stabilize W m s = { s with
      count := bumpCount W s.count
      out := s.out ++ [.decoded m.ppm m.temperatureCelsius (bumpCount W s.count)] ++
        (if Config.warmupThreshold ≤ bumpCount W s.count then [.report m.ppm m.temperatureCelsius] else []) } := by
  by_cases h : Config.warmupThreshold ≤ bumpCount W s.count <;> simp [stabilize, gate, emit, h]

/-! ### The decoder -/

/-- Everything the decoder does to a frame whose shape is right (R136). -/
theorem decodeChecked_eq (W : CounterWidth) (f : Frame) (s : State) :
    decodeChecked W f s =
      if checksum f = f.cks then
        if f.cmd = Config.cmdReadCo2 then stabilize W (measurementOf f) s else emit (.ignored f.cmd) s
      else emit (.checksumMismatch (checksum f) f.cks) s := by
  simp only [decodeChecked, validate_eq]
  split <;> split at * <;> simp_all [readCo2, unknownCmd, raiseCondition]

/-- The decoder on nine bytes (R135). -/
theorem decodeFrame_frameBytes (W : CounterWidth) (f : Frame) (s : State) :
    decodeFrame W (frameBytes f) s =
      if f.start = Config.startMarker then decodeChecked W f s
      else raiseCondition .assemblerInvariantViolation s := rfl

/-- The decoder on anything else (R135). -/
theorem decodeFrame_bad_length (W : CounterWidth) {bytes : List Byte} (h : bytes.length ≠ 9) (s : State) :
    decodeFrame W bytes s = raiseCondition .assemblerInvariantViolation s := by
  simp only [decodeFrame, (frameOfBytes?_eq_none_iff bytes).2 h]

/-- Everything the decoder can do to the state: it never touches the connection, the buffer or the input. -/
theorem decodeFrame_cases (W : CounterWidth) (bytes : List Byte) (s : State) :
    (validCo2 bytes = none ∧ decodeFrame W bytes s = raiseCondition .assemblerInvariantViolation s ∧
      (bytes.length ≠ 9 ∨ bytes.head? ≠ some Config.startMarker)) ∨
    (∃ e a, validCo2 bytes = none ∧ decodeFrame W bytes s = emit (.checksumMismatch e a) s) ∨
    (∃ c, validCo2 bytes = none ∧ decodeFrame W bytes s = emit (.ignored c) s) ∨
    (∃ m, validCo2 bytes = some m ∧ decodeFrame W bytes s = stabilize W m s) := by
  by_cases h9 : bytes.length = 9
  · obtain ⟨f, rfl⟩ := exists_frame_of_length h9
    rw [decodeFrame_frameBytes, decodeChecked_eq]
    by_cases hs : f.start = Config.startMarker
    · by_cases hc : checksum f = f.cks
      · by_cases hm : f.cmd = Config.cmdReadCo2
        · exact .inr (.inr (.inr ⟨measurementOf f, by simp [validCo2, validate_eq, hs, hc, hm], by simp [hs, hc, hm]⟩))
        · exact .inr (.inr (.inl ⟨f.cmd, by simp [validCo2, hm], by simp [hs, hc, hm]⟩))
      · exact .inr (.inl ⟨checksum f, f.cks, by simp [validCo2, validate_eq, hc], by simp [hs, hc]⟩)
    · exact .inl ⟨by simp [validCo2, hs], by simp [hs], .inr (by simp [frameBytes, hs])⟩
  · exact .inl ⟨by simp [validCo2, (frameOfBytes?_eq_none_iff bytes).2 h9], decodeFrame_bad_length W h9 s, .inl h9⟩

/-- What the decoder leaves alone, what it appends, and what that does to the count and to the reports: once, for every
later induction over a run. -/
theorem decodeFrame_effect (W : CounterWidth) (bytes : List Byte) (s : State) :
    (decodeFrame W bytes s).buf = s.buf ∧ (decodeFrame W bytes s).connected = s.connected ∧
    (decodeFrame W bytes s).inbox = s.inbox ∧
    (bytes.length = 9 → bytes.head? = some Config.startMarker → (decodeFrame W bytes s).fault = s.fault) ∧
    ∃ d, (decodeFrame W bytes s).out = s.out ++ d ∧ discardedIn d = [] ∧ framesIn d = [] ∧
      (validCo2 bytes = none → (decodeFrame W bytes s).count = s.count ∧ reportsIn d = []) ∧
      (∀ m, validCo2 bytes = some m → (decodeFrame W bytes s).count = bumpCount W s.count ∧
        reportsIn d = if Config.warmupThreshold ≤ bumpCount W s.count then [m] else []) := by
  rcases decodeFrame_cases W bytes s with ⟨hv, e, h⟩ | ⟨x, a, hv, e⟩ | ⟨c, hv, e⟩ | ⟨m, hv, e⟩ <;> rw [e]
  · refine ⟨rfl, rfl, rfl, ?_, _, rfl, rfl, rfl, fun _ => ⟨rfl, rfl⟩, by simp [hv]⟩
    rintro h9 hs
    rcases h with h | h
    · exact absurd h9 h
    · exact absurd hs h
  · exact ⟨rfl, rfl, rfl, fun _ _ => rfl, _, rfl, rfl, rfl, fun _ => ⟨rfl, rfl⟩, by simp [hv]⟩
  · exact ⟨rfl, rfl, rfl, fun _ _ => rfl, _, rfl, rfl, rfl, fun _ => ⟨rfl, rfl⟩, by simp [hv]⟩
  · rw [stabilize_eq]
    refine ⟨rfl, rfl, rfl, fun _ _ => rfl, _, List.append_assoc _ _ _, ?_, ?_, by simp [hv], ?_⟩
    · split <;> rfl
    · split <;> rfl
    · rintro m' hm
      have h : m = m' := by rw [hv] at hm; exact Option.some.inj hm
      subst h
      refine ⟨rfl, ?_⟩
      split <;> rfl

/-! ### RXBYTE -/

/-- Everything RXBYTE can do, with the case it is (R100 to R104). -/
theorem rxByte_cases (W : CounterWidth) (b : Byte) (s : State) :
    (s.connected = false ∧ rxByte W b s = s) ∨
    (s.connected = true ∧ s.buf = [] ∧ b = Config.startMarker ∧ rxByte W b s = startFrame b s) ∨
    (s.connected = true ∧ s.buf = [] ∧ b ≠ Config.startMarker ∧ rxByte W b s = emit (.discarded b) s) ∨
    (s.connected = true ∧ 1 ≤ s.len ∧ s.len ≤ 7 ∧ rxByte W b s = appendByte b s) ∨
    (s.connected = true ∧ 8 ≤ s.len ∧ rxByte W b s =
      decodeFrame W (s.buf ++ [b]) (emit (.frameDone (s.buf ++ [b])) { s with buf := [] })) := by
  cases hc : s.connected
  · simp [rxByte, hc]
  · by_cases h0 : s.buf = []
    · by_cases hb : b = Config.startMarker
      · simp [rxByte, hc, h0, hb, isFrameStart]
      · simp [rxByte, hc, h0, hb, isFrameStart, discardByte, raiseCondition]
    · have h1 : 1 ≤ s.len := List.length_pos_iff.2 h0
      have h0' : s.len ≠ 0 := by omega
      by_cases h7 : s.len ≤ 7
      · simp [rxByte, hc, h0, h7, h1]
      · refine .inr (.inr (.inr (.inr ⟨rfl, by omega, ?_⟩)))
        simp [rxByte, hc, h0, h7, completeFrame, Memory.append, Memory.cleared]

/-! ### Operations, steps and runs -/

/-- Every operation answers a next state, the one `performAt` gives at the block's counter width. -/
theorem exec_eq_next (i : Instr) (s : State) : exec i s = .next (performAt Config.countWidth i s) := by
  cases i <;> rfl

/-- A step on a presented event runs its operation with the previous outputs gone. -/
theorem step_present (E : EventWord) (s : State) :
    step (present E s) = .next (performAt Config.countWidth (decodeEvent E) { s with out := [] }) := by
  simp [step, exec_eq_next]

theorem runEvents_cons (E : EventWord) (evs : List EventWord) (s : State) :
    runEvents (E :: evs) s =
      ((runEvents evs (performAt Config.countWidth (decodeEvent E) { s with out := [] })).1,
        (performAt Config.countWidth (decodeEvent E) { s with out := [] }).out ++
          (runEvents evs (performAt Config.countWidth (decodeEvent E) { s with out := [] })).2) := by
  rw [runEvents, step_present]

@[simp] theorem runEvents_nil (s : State) : runEvents [] s = (s, []) := rfl

/-- The guard of a faulted block, in its two cases (R175). -/
theorem whenLive_live {f : State → State} {s : State} (h : s.fault = false) : whenLive f s = f s := by
  simp [whenLive, h]

theorem whenLive_faulted {f : State → State} {s : State} (h : s.fault = true) : whenLive f s = s := by
  simp [whenLive, h]

/-- The operation of an event is one of the five of format `EV` (R72). -/
theorem decodeEvent_cases (E : EventWord) :
    decodeEvent E = .rst ∨ decodeEvent E = .linkdown ∨ decodeEvent E = .linkup ∨
      (∃ b, decodeEvent E = .rxbyte b) ∨ decodeEvent E = .nop := by
  unfold decodeEvent
  split
  · exact .inl rfl
  split
  · exact .inr (.inl rfl)
  split
  · exact .inr (.inr (.inl rfl))
  split
  · exact .inr (.inr (.inr (.inl ⟨_, rfl⟩)))
  · exact .inr (.inr (.inr (.inr rfl)))

/-! ### The trace port -/

/-- The trace port shows a frame exactly when the completed value has nine bytes, and then that frame. -/
theorem traceFrameIn_eq_some {out : List Out} {F : FrameWord} :
    traceFrameIn out = some F ↔ ∃ f, frameIn out = some f ∧ f.length = 9 ∧ BitVec.ofNat 72 (natOfBytes f) = F := by
  unfold traceFrameIn
  cases frameIn out with
  | none => simp
  | some f => simp [Config.frameLen]

end Sys2Proof.Machine
end

