-- ==== Sys2Proof/Laws/PerInstr.lean ====
section
/-! SUPPORT. Statements about every operation as syntax, one lemma per constructor. -/

namespace Sys2Proof.Laws

/-- Masking off the low `k` bits of a 72-bit number. -/
theorem land_high_mask {n k : Nat} (hn : n < 2 ^ 72) (hk : k ≤ 72) :
    n &&& (2 ^ 72 - 2 ^ k) = n / 2 ^ k * 2 ^ k := by
  have hm : 2 ^ 72 - 2 ^ k = (2 ^ (72 - k) - 1) <<< k := by
    rw [Nat.shiftLeft_eq, Nat.sub_mul, ← Nat.pow_add, Nat.sub_add_cancel hk, Nat.one_mul]
  rw [hm, ← Nat.shiftLeft_eq, ← Nat.shiftRight_eq_div_pow]
  apply Nat.eq_of_testBit_eq
  intro i
  simp only [Nat.testBit_and, Nat.testBit_shiftLeft, Nat.testBit_shiftRight, Nat.testBit_two_pow_sub_one]
  by_cases h : k ≤ i
  · have hi : k + (i - k) = i := by omega
    by_cases h72 : i < 72
    · have : i - k < 72 - k := by omega
      simp [h, hi, this]
    · rw [Nat.testBit_lt_two_pow (Nat.lt_of_lt_of_le hn (Nat.pow_le_pow_right (by decide) (by omega : 72 ≤ i)))]
      simp [h, hi, Nat.testBit_lt_two_pow (Nat.lt_of_lt_of_le hn (Nat.pow_le_pow_right (by decide) (by omega : 72 ≤ i)))]
  · simp [h]

/-- Nine bytes as one number, by its bytes. -/
theorem natOfBytes_frame (a b c d e f g h k : Byte) :
    natOfBytes [a, b, c, d, e, f, g, h, k] < 2 ^ 72 ∧
    natOfBytes [a, b, c, d, e, f, g, h, k] / 2 ^ 64 = a.toNat ∧
    natOfBytes [a, b, c, d, e, f, g, h, k] / 2 ^ 56 = 256 * a.toNat + b.toNat := by
  have := a.isLt; have := b.isLt; have := c.isLt; have := d.isLt; have := e.isLt
  have := f.isLt; have := g.isLt; have := h.isLt; have := k.isLt
  simp only [natOfBytes, List.foldl]
  omega

/-- The encoding of a well-formed operation satisfies its row's mask and match and fits the row's whole bytes. -/
def EncodingFitsRow.Statement (i : Instr) : Prop :=
  i.wellFormed = true →
    tableWord (encode i) &&& tableMask i = tableMatch i ∧ tableWord (encode i) < 2 ^ tableBits (encode i)

theorem EncodingFitsRow.rst : EncodingFitsRow.Statement .rst := by intro _; decide

theorem EncodingFitsRow.linkdown : EncodingFitsRow.Statement .linkdown := by intro _; decide

theorem EncodingFitsRow.linkup : EncodingFitsRow.Statement .linkup := by intro _; decide

theorem EncodingFitsRow.rxbyte (b : Byte) : EncodingFitsRow.Statement (.rxbyte b) := by
  intro _
  constructor
  · revert b; decide +kernel
  · exact Nat.lt_of_lt_of_le (BitVec.isLt _) (by decide : 2 ^ 12 ≤ 2 ^ 16)

theorem EncodingFitsRow.nop : EncodingFitsRow.Statement .nop := by intro _; decide

theorem EncodingFitsRow.readCo2 (hi lo tt rh rl r8 k : Byte) :
    EncodingFitsRow.Statement (.readCo2 hi lo tt rh rl r8 k) := by
  intro _
  obtain ⟨hlt, -, h56⟩ := natOfBytes_frame 0xFF#8 0x86#8 hi lo tt rh rl r8 k
  have hm := land_high_mask hlt (k := 56) (by decide)
  rw [h56] at hm
  have e : (0xFFFF00000000000000 : Nat) = 2 ^ 72 - 2 ^ 56 := by norm_num
  refine ⟨?_, hlt⟩
  show natOfBytes [0xFF#8, 0x86#8, hi, lo, tt, rh, rl, r8, k] &&& 0xFFFF00000000000000 = 0xFF8600000000000000
  rw [e, hm]
  norm_num

theorem EncodingFitsRow.unknownCmd (c d0 d1 d2 d3 d4 d5 k : Byte) :
    EncodingFitsRow.Statement (.unknownCmd c d0 d1 d2 d3 d4 d5 k) := by
  intro _
  obtain ⟨hlt, h64, -⟩ := natOfBytes_frame 0xFF#8 c d0 d1 d2 d3 d4 d5 k
  have hm := land_high_mask hlt (k := 64) (by decide)
  rw [h64] at hm
  have e : (0xFF0000000000000000 : Nat) = 2 ^ 72 - 2 ^ 64 := by norm_num
  refine ⟨?_, hlt⟩
  show natOfBytes [0xFF#8, c, d0, d1, d2, d3, d4, d5, k] &&& 0xFF0000000000000000 = 0xFF0000000000000000
  rw [e, hm]
  norm_num

theorem EncodingFitsRow.pollReadCo2 : EncodingFitsRow.Statement .pollReadCo2 := by intro _; decide

end Sys2Proof.Laws
end

