-- ==== Sys2Proof/Tests/Slice0.lean ====
section
/-! SUPPORT. Small checks of the model against spec/95_test_vectors.md, and for each statement of Certificates/Slice0/Obligations.lean with hypotheses a state and operands that meet them. -/

namespace Sys2Proof.Tests

open Sys2Proof.Machine

/-- A state written `(connected, buf, count)` in spec/95_test_vectors.md. -/
def st (connected : Bool) (buf : List Byte) (count : Nat) : State := ⟨connected, buf, count, false, [], []⟩

/-- The same, faulted. -/
def faulted (connected : Bool) (buf : List Byte) (count : Nat) : State := ⟨connected, buf, count, true, [], []⟩

/-- The first eight bytes of the frame of S6. -/
def head8 : List Byte := [0xFF#8, 0x86#8, 0x01#8, 0xF4#8, 0x28#8, 0x00#8, 0x00#8, 0x00#8]

/-- The frame of S6, `FF 86 01 F4 28 00 00 00 5D`. -/
def s6 : Frame := ⟨0xFF#8, 0x86#8, 0x01#8, 0xF4#8, 0x28#8, 0x00#8, 0x00#8, 0x00#8, 0x5D#8⟩

/-- The frame of V33, `FF 86 01 53 27 00 00 00 FF`. -/
def v33 : Frame := ⟨0xFF#8, 0x86#8, 0x01#8, 0x53#8, 0x27#8, 0x00#8, 0x00#8, 0x00#8, 0xFF#8⟩

/-! ### WellFormed refuses what is not the reading of a word -/

theorem test_wf_unknownCmd_of_0x86_refused :
    (Instr.unknownCmd 0x86#8 0x00#8 0x00#8 0x00#8 0x00#8 0x00#8 0x00#8 0x7A#8).wellFormed = false := by decide

theorem test_wf_unknownCmd_of_poll_literal_refused :
    (Instr.unknownCmd 0x01#8 0x86#8 0x00#8 0x00#8 0x00#8 0x00#8 0x00#8 0x79#8).wellFormed = false := by decide

/-! ### Decoding, on words written out from R72, R73 and R80 -/

theorem test_decode_rst : decodeTableWord 16 0b100000000000 = some .rst := by decide
theorem test_decode_linkdown : decodeTableWord 16 0b010000000000 = some .linkdown := by decide
theorem test_decode_linkup : decodeTableWord 16 0b001000000000 = some .linkup := by decide
theorem test_decode_rxbyte : decodeTableWord 16 0b000110100101 = some (.rxbyte 0xA5#8) := by decide
theorem test_decode_nop : decodeTableWord 16 0b000000000000 = some .nop := by decide

theorem test_decode_readCo2 : decode (.frame
      [0b11111111#8, 0b10000110#8, 0b00000001#8, 0b10010000#8, 0b01000001#8, 0b00010010#8, 0b00110100#8, 0b01010110#8,
        0b00001100#8]) =
    .ok (.readCo2 0x01#8 0x90#8 0x41#8 0x12#8 0x34#8 0x56#8 0x0C#8) := by decide

theorem test_decode_unknownCmd : decode (.frame
      [0b11111111#8, 0b10000111#8, 0x01#8, 0x02#8, 0x03#8, 0x04#8, 0x05#8, 0x06#8, 0x07#8]) =
    .ok (.unknownCmd 0x87#8 0x01#8 0x02#8 0x03#8 0x04#8 0x05#8 0x06#8 0x07#8) := by decide

theorem test_decode_pollReadCo2 : decodeTableWord 72 0xFF0186000000000079 = some .pollReadCo2 := by decide

theorem test_decode_no_start_marker_refused :
    decode (.frame [0x00#8, 0x86#8, 0x01#8, 0xF4#8, 0x28#8, 0x00#8, 0x00#8, 0x00#8, 0x5D#8]) =
      .error .noStartMarker := by decide

theorem test_decode_short_frame_refused : decode (.frame head8) = .error .wrongLength := by decide

theorem test_decode_wide_event_word_refused : decodeTableWord 16 0x1000 = none := by decide

/-! ### One step each (the vectors' numbers are those of spec/95_test_vectors.md) -/

theorem test_v49_rst : exec .rst (st true [0xFF#8, 0x86#8, 0x01#8] 25) = .next (st false [] 0) := rfl
theorem test_v67_rst_clears_fault : exec .rst (faulted true [0xFF#8] 7) = .next (st false [] 0) := rfl

theorem test_v46_linkdown : exec .linkdown (st true [0xFF#8, 0x86#8, 0x01#8] 25) =
    .next { st false [] 0 with out := [.linkLost] } := rfl
theorem test_v63_linkdown_loses_the_byte : step (present 0x501#12 (st true [0xFF#8, 0x86#8] 0)) =
    .next { st false [] 0 with out := [.linkLost] } := rfl

theorem test_v48_linkup_while_connected : exec .linkup (st true [0xFF#8, 0x86#8, 0x01#8] 25) =
    .next { st true [] 0 with out := [.linkUp] } := rfl
theorem test_v64_linkup_loses_the_byte : step (present 0x3FF#12 (st false [] 0)) =
    .next { st true [] 0 with out := [.linkUp] } := rfl

theorem test_v18_nop : exec .nop (st true [0xFF#8, 0x86#8] 3) = .next (st true [0xFF#8, 0x86#8] 3) := rfl

theorem test_v13_marker_inside_frame_is_data : exec (.rxbyte 0xFF#8) (st true [0xFF#8] 0) =
    .next (st true [0xFF#8, 0xFF#8] 0) := rfl
theorem test_v15_marker_as_checksum_completes :
    exec (.rxbyte 0xFF#8) (st true ((frameBytes v33).take 8) 4) =
      .next { st true [] 5 with out := [.frameDone (frameBytes v33), .decoded 339 (-1) 5] } := rfl

theorem test_v28_readCo2_smallest : exec (.readCo2 0x00#8 0x00#8 0x00#8 0x00#8 0x00#8 0x00#8 0x7A#8) (st true [] 0) =
    .next { st true [] 1 with out := [.decoded 0 (-40) 1] } := rfl
theorem test_v41_readCo2_twentieth : exec (.readCo2 0x01#8 0xA3#8 0x3C#8 0x00#8 0x00#8 0x00#8 0x9A#8) (st true [] 19) =
    .next { st true [] 20 with out := [.decoded 419 20 20, .report 419 20] } := rfl

theorem test_v35_unknownCmd : exec (.unknownCmd 0x87#8 0x00#8 0x00#8 0x00#8 0x00#8 0x00#8 0x00#8 0x79#8) (st true [] 3) =
    .next { st true [] 3 with out := [.ignored 0x87#8] } := rfl
theorem test_v36_unknownCmd_bad_checksum :
    exec (.unknownCmd 0x87#8 0x00#8 0x00#8 0x00#8 0x00#8 0x00#8 0x00#8 0x7A#8) (st true [] 3) =
      .next { st true [] 3 with out := [.checksumMismatch 0x79#8 0x7A#8] } := rfl

theorem test_v27_pollReadCo2 : exec .pollReadCo2 (st true [] 3) =
    .next { st true [] 3 with out := [.ignored 0x01#8] } := rfl

theorem test_v51_decoder_faults_on_eight_bytes :
    decodeFrame Config.countWidth [0xFF#8, 0x86#8, 0x01#8, 0xF4#8, 0x28#8, 0x00#8, 0x00#8, 0x5D#8] (st true [] 0) =
      { faulted true [] 0 with out := [.fault 5] } := rfl

theorem test_v61_saturation : bumpCount Config.countWidth 255 = 255 := rfl

theorem test_v24_checksum : checksum ⟨0xFF#8, 0xFF#8, 0xFF#8, 0xFF#8, 0xFF#8, 0xFF#8, 0xFF#8, 0xFF#8, 0x00#8⟩ = 0x07#8 := rfl
theorem test_v26_checksum_drops_carry :
    checksum ⟨0xFF#8, 0x86#8, 0x7A#8, 0x00#8, 0x00#8, 0x00#8, 0x00#8, 0x00#8, 0x00#8⟩ = 0x00#8 := rfl

/-! ### Ports and notation -/

/-- R88: -40 on the 9-bit port is `0x1D8` (spec/95_test_vectors.md, section 2.4). -/
theorem test_report_temp_port : (portsOf 0 { st true [] 20 with out := [.report 500 (-40)] }).reportTemp = 0x1D8#9 := by
  decide

/-- Log entry 24 (the model's choice): offset 0 in the top byte of `tr_frame`; R88: kind 2 implies a completed frame. -/
theorem test_trace_frame_port :
    (portsOf 0 { st true [] 1 with out := [.frameDone (frameBytes s6), .decoded 500 0 1] }).trFrame =
      0xFF8601F4280000005D#72 ∧
    (portsOf 0 { st true [] 1 with out := [.frameDone (frameBytes s6), .decoded 500 0 1] }).trKind = 2#3 := by decide

/-- R71, R88: the pins of word `3A5`. -/
theorem test_event_of_pins : eventOfPins false false true true 0xA5#8 = 0x3A5#12 := by decide

/-- R87: `0x05` is `05`, not `5`. -/
theorem test_render_zero_padded : renderByte .upper 0x05#8 = ['0', '5'] := by decide

/-- R85: `CO2 500 0`. -/
theorem test_stim_co2 : stimCo2 500 0 =
    [0x1FF#12, 0x186#12, 0x101#12, 0x1F4#12, 0x128#12, 0x100#12, 0x100#12, 0x100#12, 0x15D#12] := by decide

/-- A frame placed after reset is run by the next step (log entry 4). -/
theorem test_placed_frame_is_run :
    step (State.reset.withFetchWord 72 0xFF8601F4280000005D) =
      .next { st true [] 1 with out := [.frameDone (frameBytes s6), .decoded 500 0 1] } := rfl

/-- An event word placed after reset is run by the next step. -/
theorem test_placed_event_is_run :
    step (State.reset.withFetchWord 16 0x200) = .next { st true [] 0 with out := [.linkUp] } := rfl

/-! ### Witnesses: each meets all the hypotheses of the statement it is named after, clause by clause -/

theorem witness_EventWordDecodesByPriority :
    (0xFFF#12 : EventWord).extractLsb' 11 1 = 1#1 ∧ (0x7FF#12 : EventWord).extractLsb' 10 2 = 0b01#2 ∧
    (0x3FF#12 : EventWord).extractLsb' 9 3 = 0b001#3 ∧ (0x1FF#12 : EventWord).extractLsb' 8 4 = 0b0001#4 ∧
    (0x0FF#12 : EventWord).extractLsb' 8 4 = 0b0000#4 := by decide

theorem witness_DecodeEncodeRoundTrip :
    (Instr.unknownCmd 0x87#8 0x00#8 0x00#8 0x00#8 0x00#8 0x00#8 0x00#8 0x79#8).wellFormed = true ∧
    Instr.pollReadCo2.wellFormed = true ∧ (Instr.rxbyte 0xFF#8).wellFormed = true := by decide

theorem witness_FrameWordsReencodeExactly :
    (0xFF8601F4280000005D#72 : FrameWord).extractLsb' 64 8 = 0xFF#8 ∧
    (0xFE8601F4280000005D#72 : FrameWord).extractLsb' 64 8 ≠ 0xFF#8 := by decide

theorem witness_FrameClassesByMaskAndMatch :
    (0xFF8601F4280000005D#72 : FrameWord) &&& 0xFFFF00000000000000#72 = 0xFF8600000000000000#72 ∧
    (0xFF0186000000000078#72 : FrameWord) &&& 0xFF0000000000000000#72 = 0xFF0000000000000000#72 ∧
    (0xFF0186000000000078#72 : FrameWord) &&& 0xFFFF00000000000000#72 ≠ 0xFF8600000000000000#72 ∧
    (0xFF0186000000000078#72 : FrameWord) ≠ 0xFF0186000000000079#72 := by decide

theorem witness_StepRunsDecodedInstruction :
    (present 0x200#12 State.reset).inbox = 0x200#12 :: [] ∧ State.reset.inbox = [] := by decide

theorem witness_StepFollowsTopLevelRule :
    decodeEvent 0x800#12 = .rst ∧ decodeEvent 0x200#12 ≠ .rst ∧ (faulted true [0xFF#8] 7).fault = true ∧
    State.reset.fault = false := by decide

theorem witness_PlacedWordIsWhatTheNextStepRuns :
    State.reset.fault = false ∧ decodeTableWord 16 0x1FF = some (.rxbyte 0xFF#8) ∧
    decodeTableWord 72 0xFF0186000000000079 = some .pollReadCo2 := by decide

theorem witness_LinkUpOpensFreshConnection :
    (st true [0xFF#8] 25).fault = false ∧ (0x3FF#12 : EventWord) &&& 0xE00#12 = 0x200#12 ∧
    exec .linkup (st true [0xFF#8] 25) = .next { st true [] 0 with out := [.linkUp] } := ⟨rfl, by decide, rfl⟩

theorem witness_LinkDownDiscardsConnection :
    (st true [0xFF#8] 25).fault = false ∧ (0x7FF#12 : EventWord) &&& 0xC00#12 = 0x400#12 ∧
    exec .linkdown (st true [0xFF#8] 25) = .next { st false [] 0 with out := [.linkLost] } ∧
    BlockInv (st false [] 0) ∧ (st false [] 0).connected = false :=
  ⟨rfl, by decide, rfl, by unfold BlockInv; decide, rfl⟩

theorem witness_NopChangesNothing : ∀ E ∈ ([0x000#12, 0x0FF#12] : List EventWord), E.extractLsb' 8 4 = 0#4 := by decide

theorem witness_RstClearsEverything :
    (0xFFF#12 : EventWord).extractLsb' 11 1 = 1#1 ∧ Instr.rxbyte 0xFF#8 ≠ .rst ∧ (faulted true [] 0).fault = true ∧
    ∀ E ∈ ([0x400#12, 0x1FF#12, 0x800#12] : List EventWord), decodeEvent E ≠ .linkup := by decide

theorem witness_ResetAndLinkValues : (st true [0xFF#8] 25).fault = false := rfl

theorem witness_CoincidentEventsLoseAllButTheHighest :
    (0xFFF#12 : EventWord).extractLsb' 11 1 = 1#1 ∧ (0x600#12 : EventWord).extractLsb' 10 2 = 0b01#2 ∧
    (0x3FF#12 : EventWord).extractLsb' 9 3 = 0b001#3 := by decide

theorem witness_LinkOperationsAreBarriers :
    decodeEvent 0x800#12 = .rst ∧ decodeEvent 0x400#12 = .linkdown ∧ decodeEvent 0x200#12 = .linkup ∧
    (st true [0xFF#8] 25).fault = false ∧ (st false [] 0).fault = false ∧
    step (present 0x200#12 (st true [0xFF#8] 25)) = .next { st true [] 0 with out := [.linkUp] } ∧
    step (present 0x200#12 (st false [] 0)) = .next { st true [] 0 with out := [.linkUp] } :=
  ⟨by decide, by decide, by decide, rfl, rfl, rfl, rfl⟩

theorem witness_FrameStartOnlyOnEmptyBuffer :
    isFrameStart 0 0xFF#8 = true ∧ isFrameStart 0 0xFE#8 = false ∧ 1 ≤ (1 : Nat) := by decide

theorem witness_RxByteSelectsItsCase :
    ((faulted true [] 0).fault = true ∧ (st false [] 0).connected = false) ∧
    ((st true [] 0).fault = false ∧ (st true [] 0).connected = true ∧ (st true [] 0).len = 0 ∧
      isFrameStart 0 0xFF#8 = true ∧ isFrameStart 0 0x5D#8 = false) ∧
    (1 ≤ (st true [0xFF#8] 0).len ∧ (st true (head8.take 7) 0).len ≤ 7 ∧ (st true head8 0).len = 8) := by decide

theorem witness_StrayBytesAreDiscarded :
    (st true [] 7).fault = false ∧ (st true [] 7).connected = true ∧ (st true [] 7).buf = [] ∧
    ∀ b ∈ ([0x00#8, 0xFE#8] : List Byte), b ≠ 0xFF#8 := by decide

theorem witness_StartMarkerBeginsFrame :
    (st true [] 0).fault = false ∧ (st true [] 0).connected = true ∧ (st true [] 0).buf = [] := by decide

theorem witness_ByteInsideFrameIsAppended :
    ((st true [0xFF#8] 0).fault = false ∧ (st true [0xFF#8] 0).connected = true ∧ 1 ≤ (st true [0xFF#8] 0).len ∧
      (st true [0xFF#8] 0).len ≤ 7) ∧
    1 ≤ (st true (head8.take 7) 0).len ∧ (st true (head8.take 7) 0).len ≤ 7 := by decide

theorem witness_AppendWritesOneCell :
    ((st true [] 0).fault = false ∧ (st true [] 0).connected = true ∧ (st true [] 0).len ≤ 7 ∧
      ((st true [] 0).len = 0 → (0xFF#8 : Byte) = 0xFF#8) ∧
      exec (.rxbyte 0xFF#8) (st true [] 0) = .next (st true [0xFF#8] 0)) ∧
    ((st true head8 0).len = 8 ∧ exec (.rxbyte 0x5D#8) (st true head8 0) =
      .next { st true [] 1 with out := [.frameDone (frameBytes s6), .decoded 500 0 1] }) :=
  ⟨⟨rfl, rfl, by decide, fun _ => rfl, rfl⟩, rfl, rfl⟩

theorem witness_NinthByteCompletesFrame :
    (st true head8 0).fault = false ∧ (st true head8 0).connected = true ∧ (st true head8 0).len = 8 ∧
    (st true head8 0).buf.head? = some 0xFF#8 := by decide

theorem witness_FramePositionAdvancesAsStated :
    ((st true head8 0).len ≤ 8 ∧ step (present 0x15D#12 (st true head8 0)) =
      .next { st true [] 1 with out := [.frameDone (frameBytes s6), .decoded 500 0 1] }) ∧
    ((st true [] 0).len = 0 ∧ (st true [0xFF#8] 0).len = 1 ∧ (st true (head8.take 7) 0).len = 7 ∧
      decodeEvent 0x15D#12 = .rxbyte 0x5D#8) ∧
    decodeEvent 0x800#12 = .rst ∧ decodeEvent 0x400#12 = .linkdown ∧ decodeEvent 0x200#12 = .linkup ∧
    decodeEvent 0x000#12 = .nop ∧ (faulted true [] 0).fault = true ∧ (st false [] 0).connected = false :=
  ⟨⟨by decide, rfl⟩, by decide⟩

theorem witness_EveryByteIsAccountedFor :
    (st true [0xFF#8] 0).connected = true ∧ (st true [0xFF#8] 0).fault = false ∧
    Memory.wf (st true [0xFF#8] 0).buf = true ∧ Memory.wf head8 = true ∧ Memory.wf ([] : Memory) = true := by decide

theorem witness_EmittedFramesAreWellShaped : BlockInv (st true head8 0) := by unfold BlockInv; decide

theorem witness_NoiseThenFrameResynchronises :
    (st true [] 19).connected = true ∧ (st true [] 19).fault = false ∧ (st true [] 19).buf = [] ∧
    (∀ b ∈ ([0x00#8, 0x00#8] : List Byte), b ≠ 0xFF#8) ∧ validCo2 (frameBytes s6) = some ⟨500, 0⟩ := by decide

theorem witness_SilentMisalignmentPersists :
    (st true [0xFF#8] 0).connected = true ∧ (st true [0xFF#8] 0).fault = false ∧ (st true [0xFF#8] 0).buf = [0xFF#8] ∧
    v33.start = 0xFF#8 ∧ v33.cks = 0xFF#8 ∧ validate v33 = .valid v33 := by decide

theorem witness_ChecksumFollowsFormula :
    checksumSum ⟨0xFF#8, 0x00#8, 0x00#8, 0x00#8, 0x00#8, 0x00#8, 0x00#8, 0x00#8, 0x00#8⟩ = 0x00 ∧
    checksumSum ⟨0xFF#8, 0x01#8, 0x00#8, 0x00#8, 0x00#8, 0x00#8, 0x00#8, 0x00#8, 0x00#8⟩ = 0x01 ∧
    checksumSum ⟨0xFF#8, 0xFF#8, 0x00#8, 0x00#8, 0x00#8, 0x00#8, 0x00#8, 0x00#8, 0x00#8⟩ = 0xFF ∧
    checksumSum ⟨0xFF#8, 0x80#8, 0x00#8, 0x00#8, 0x00#8, 0x00#8, 0x00#8, 0x00#8, 0x00#8⟩ = 0x80 := by decide

theorem witness_ValidateComparesExactly :
    checksum s6 = s6.cks ∧ checksum { s6 with cks := 0x5E#8 } ≠ 0x5E#8 ∧ validate s6 = .valid s6 := by decide

theorem witness_ExactlyOneChecksumByteIsValid :
    (st true [] 0).connected = true ∧ (st true [] 0).fault = false ∧ (st true [] 0).buf = [] ∧ s6.start = 0xFF#8 ∧
    validate s6 = .valid s6 ∧ ((0x01#8 : Byte) = 1#8 ∨ (0x01#8 : Byte) = 0xFF#8) := by decide

/-- V56 to V58: one data byte changed; two changes that cancel, at offsets 1 and 8; two bytes exchanged. -/
theorem witness_ChecksumCatchesSingleByteErrors :
    (checksumValid s6 ∧ 1 ≤ (1 : Nat) ∧ (8 : Nat) ≤ 8 ∧ (frameBytes s6)[1]? ≠ some 0x87#8 ∧
      (frameBytes s6)[8]? ≠ some 0x5E#8 ∧
      frameOfBytes? ((frameBytes s6).set 1 0x87#8) = some { s6 with cmd := 0x87#8 } ∧
      frameOfBytes? ((frameBytes s6).set 8 0x5E#8) = some { s6 with cks := 0x5E#8 }) ∧
    ((((frameBytes s6).drop 1).take 7).Perm (((frameBytes { s6 with d0 := 0xF4#8, d1 := 0x01#8 }).drop 1).take 7) ∧
      s6.cks = { s6 with d0 := 0xF4#8, d1 := 0x01#8 }.cks) ∧
    (1 ≤ (1 : Nat) ∧ (8 : Nat) ≤ 8 ∧ (1 : Nat) ≠ 8 ∧ (frameBytes s6)[1]? = some 0x86#8 ∧ (frameBytes s6)[8]? = some 0x5D#8 ∧
      frameOfBytes? (((frameBytes s6).set 1 (0x86#8 + 0x01#8)).set 8 (0x5D#8 - 0x01#8)) =
        some { s6 with cmd := 0x87#8, cks := 0x5C#8 }) := by
  unfold checksumValid; decide

theorem witness_DecoderChecksFrameShape :
    head8.length ≠ 9 ∧ ([0x00#8] ++ head8).head? ≠ some 0xFF#8 ∧ (frameBytes s6).length = 9 ∧
    (frameBytes s6).head? = some 0xFF#8 := by decide

theorem witness_FirstFailingCheckDecides :
    ((st true head8 0).fault = false ∧ (st true head8 0).connected = true ∧ (st true head8 0).len = 8) ∧
    ((st true (0x00#8 :: head8.drop 1) 0).len = 8 ∧ (0x00#8 :: head8.drop 1 ++ [0x5D#8]).head? ≠ some 0xFF#8) ∧
    (frameBytes s6 = head8 ++ [0x5D#8] ∧ s6.start = 0xFF#8 ∧ checksum s6 = s6.cks ∧ s6.cmd = 0x86#8) ∧
    (frameBytes { s6 with cks := 0x5E#8 } = head8 ++ [0x5E#8] ∧ checksum { s6 with cks := 0x5E#8 } ≠ 0x5E#8) ∧
    (frameBytes { s6 with cmd := 0x87#8, cks := 0x5C#8 } = (0xFF#8 :: 0x87#8 :: head8.drop 2) ++ [0x5C#8] ∧
      checksum { s6 with cmd := 0x87#8, cks := 0x5C#8 } = 0x5C#8 ∧ (0x87#8 : Byte) ≠ 0x86#8) := by decide

theorem witness_ReadCo2DecodesCountsAndGates :
    (st true [] 19).fault = false ∧
    checksum ⟨0xFF#8, 0x86#8, 0xFF#8, 0xFF#8, 0xFF#8, 0x00#8, 0x00#8, 0x00#8, 0x7D#8⟩ = 0x7D#8 ∧
    (65535 : Nat) = 256 * (0xFF#8 : Byte).toNat + (0xFF#8 : Byte).toNat ∧
    (215 : Int) = ((0xFF#8 : Byte).toNat : Int) - 40 ∧ (20 : Nat) = min ((st true [] 19).count + 1) 255 := by decide

theorem witness_UnknownCommandIsIgnored :
    (st true [] 3).fault = false ∧ (0x87#8 : Byte) ≠ 0x86#8 ∧
    checksum ⟨0xFF#8, 0x87#8, 0x00#8, 0x00#8, 0x00#8, 0x00#8, 0x00#8, 0x00#8, 0x79#8⟩ = 0x79#8 := by decide

theorem witness_ReceivedPollRequestIsIgnored : (st true [] 3).fault = false := rfl

theorem witness_FrameClassWithBadChecksumOnlyLogs :
    (st true [] 3).fault = false ∧
    (0x5D#8 = checksum ⟨0xFF#8, 0x86#8, 0x01#8, 0xF4#8, 0x28#8, 0x00#8, 0x00#8, 0x00#8, 0x5E#8⟩ ∧ (0x5D#8 : Byte) ≠ 0x5E#8) ∧
    (0x79#8 = checksum ⟨0xFF#8, 0x87#8, 0x00#8, 0x00#8, 0x00#8, 0x00#8, 0x00#8, 0x00#8, 0x7A#8⟩ ∧ (0x79#8 : Byte) ≠ 0x7A#8) := by
  decide

theorem witness_CompletingByteRunsItsFrameClass :
    (st true head8 0).fault = false ∧ (st true head8 0).connected = true ∧ (st true head8 0).len = 8 ∧
    (st true head8 0).buf.head? = some 0xFF#8 := by decide

theorem witness_FaultIsStuckUntilReset :
    (faulted true [0xFF#8] 7).fault = true ∧
    ∀ E ∈ ([0x200#12, 0x400#12, 0x186#12, 0x000#12] : List EventWord), decodeEvent E ≠ .rst := by decide

theorem witness_ReportsAreValidFramesFromTheTwentieth :
    (st true [0xFF#8] 0).connected = true ∧ (st true [0xFF#8] 0).fault = false ∧ (st true [0xFF#8] 0).count = 0 ∧
    Memory.wf (st true [0xFF#8] 0).buf = true ∧
    ∀ E ∈ ([0x1FF#12, 0x186#12, 0x000#12] : List EventWord), keepsConnection E = true := by decide

theorem witness_CounterWidthIsInvisible : 5 ≤ (5 : Nat) := by decide

theorem witness_OnlyValidCo2FramesCount :
    (keepsConnection 0x15D#12 = true ∧ step (present 0x15D#12 (st true head8 0)) =
      .next { st true [] 1 with out := [.frameDone (frameBytes s6), .decoded 500 0 1] } ∧
      (framesIn [.frameDone (frameBytes s6), .decoded 500 0 1]).filterMap validCo2 ≠ []) ∧
    (keepsConnection 0x100#12 = true ∧ step (present 0x100#12 (st true [] 0)) =
      .next { st true [] 0 with out := [.discarded 0x00#8] } ∧
      (framesIn [.discarded 0x00#8]).filterMap validCo2 = []) :=
  ⟨⟨by decide, rfl, by decide⟩, by decide, rfl, rfl⟩

theorem witness_CountNeverFallsWithinConnection :
    (st true [] 255).count ≤ 255 ∧
    ∀ E ∈ ([0x1FF#12, 0x186#12, 0x000#12] : List EventWord), keepsConnection E = true := by decide

theorem witness_TwentiethFrameIsFirstReported :
    ((st true [] 19).fault = false ∧ (st true [] 19).out = [] ∧ 19 ≤ (st true [] 19).count ∧ (st true [] 18).count < 19) ∧
    checksum ⟨0xFF#8, 0x86#8, 0x02#8, 0x58#8, 0x3E#8, 0x00#8, 0x00#8, 0x00#8, 0xE2#8⟩ = 0xE2#8 := by decide

theorem witness_ReconnectionRestartsWarmUp :
    (st true [0xFF#8] 25).fault = false ∧ decodeEvent 0x400#12 = .linkdown ∧ decodeEvent 0x200#12 = .linkup ∧
    (∀ E ∈ ([0x1FF#12] : List EventWord), keepsConnection E = true) ∧
    (∀ E ∈ ([0x1FF#12, 0x000#12] : List EventWord), keepsConnection E = true) := by decide

theorem witness_ConnectionStateMachine :
    (BlockInv (st true head8 18) ∧ step (present 0x15D#12 (st true head8 18)) =
      .next { st true [] 19 with out := [.frameDone (frameBytes s6), .decoded 500 0 19] }) ∧
    (BlockInv (st true head8 19) ∧ step (present 0x15D#12 (st true head8 19)) =
      .next { st true [] 20 with out := [.frameDone (frameBytes s6), .decoded 500 0 20, .report 500 0] } ∧
      (framesIn [.frameDone (frameBytes s6), .decoded 500 0 20, .report 500 0]).filterMap validCo2 = [⟨500, 0⟩]) ∧
    (BlockInv (st true [] 0) ∧ (st true [] 0).connected = true ∧ keepsConnection 0x000#12 = true ∧
      step (present 0x000#12 (st true [] 0)) = .next (st true [] 0)) ∧
    decodeEvent 0x400#12 = .linkdown ∧ decodeEvent 0x200#12 = .linkup :=
  ⟨⟨by unfold BlockInv; decide, rfl⟩, ⟨by unfold BlockInv; decide, rfl, rfl⟩,
    ⟨by unfold BlockInv; decide, rfl, by decide, rfl⟩, by decide, by decide⟩

theorem witness_FlagsChangeOnlyAsStated :
    (step (present 0x200#12 (st false [] 0)) = .next { st true [] 0 with out := [.linkUp] } ∧
      (st false [] 0).connected = false ∧ decodeEvent 0x200#12 = .linkup) ∧
    (step (present 0x400#12 (st true [] 0)) = .next { st false [] 0 with out := [.linkLost] } ∧
      decodeEvent 0x400#12 = .linkdown) ∧
    (step (present 0x800#12 (faulted true [] 0)) = .next (st false [] 0) ∧ decodeEvent 0x800#12 = .rst) ∧
    (step (present 0x15D#12 (st true (0x00#8 :: head8.drop 1) 0)) =
      .next { faulted true [] 0 with out := [.frameDone (0x00#8 :: head8.drop 1 ++ [0x5D#8]), .fault 5] }) :=
  ⟨⟨rfl, rfl, by decide⟩, ⟨rfl, by decide⟩, ⟨rfl, by decide⟩, rfl⟩

theorem witness_StepKeepsInvariant :
    BlockInv (present 0x1FF#12 (st true [] 0)) ∧
    step (present 0x1FF#12 (st true [] 0)) = .next (st true [0xFF#8] 0) := ⟨by unfold BlockInv; decide, rfl⟩

theorem witness_EveryReportIsTrusted :
    step (present 0x15D#12 (st true head8 19)) =
      .next { st true [] 20 with out := [.frameDone (frameBytes s6), .decoded 500 0 20, .report 500 0] } ∧
    (⟨500, 0⟩ : Measurement) ∈ reportsIn [.frameDone (frameBytes s6), .decoded 500 0 20, .report 500 0] :=
  ⟨rfl, by decide⟩

theorem witness_StepOutputsHaveStatedShapes :
    step (present 0x100#12 (st true [] 0)) = .next { st true [] 0 with out := [.discarded 0x00#8] } := rfl

theorem witness_OutputsNeverInfluenceBehaviour :
    exec .linkup (st false [] 0) = .next { st true [] 0 with out := [.linkUp] } := rfl

theorem witness_StatusPortsShowTheState : (st true head8 255).len ≤ 8 ∧ (st true head8 255).count ≤ 255 := by decide

theorem witness_PulsePortsCarryTheRecords :
    (step (present 0x15D#12 (st true head8 19)) =
      .next { st true [] 20 with out := [.frameDone (frameBytes s6), .decoded 500 0 20, .report 500 0] } ∧
      (⟨500, 0⟩ : Measurement) ∈ reportsIn [.frameDone (frameBytes s6), .decoded 500 0 20, .report 500 0]) ∧
    (step (present 0x15E#12 (st true head8 19)) =
      .next { st true [] 19 with out := [.frameDone (head8 ++ [0x5E#8]), .checksumMismatch 0x5D#8 0x5E#8] } ∧
      (head8 ++ [0x5E#8]).length = 9) ∧
    step (present 0x100#12 (st true [] 0)) = .next { st true [] 0 with out := [.discarded 0x00#8] } ∧
    step (present 0x107#12 (st true (List.replicate 8 0xFF#8) 3)) =
      .next { st true [] 3 with out := [.frameDone (List.replicate 8 0xFF#8 ++ [0x07#8]), .ignored 0xFF#8] } :=
  ⟨⟨rfl, by decide⟩, ⟨rfl, rfl⟩, rfl, rfl⟩

end Sys2Proof.Tests
end

/-! ## The flags and the values after the link operations (R31, R35) -/

namespace Sys2Proof.Machine

/-! ### Link control: the fields it sets -/

@[simp] theorem linkUp_connected (s : State) : (linkUp s).connected = true := rfl
@[simp] theorem linkUp_buf (s : State) : (linkUp s).buf = [] := rfl
@[simp] theorem linkUp_count (s : State) : (linkUp s).count = 0 := rfl
@[simp] theorem linkUp_fault (s : State) : (linkUp s).fault = s.fault := rfl

/-- Both branches of LINKDOWN drop the connection; they differ in the record only. -/
theorem linkDown_eq_dropConnection (s : State) :
    linkDown s = dropConnection (if s.connected then emit .linkLost s else s) := by
  unfold linkDown
  split <;> rfl

@[simp] theorem linkDown_connected (s : State) : (linkDown s).connected = false := by
  simp [linkDown_eq_dropConnection]

@[simp] theorem linkDown_buf (s : State) : (linkDown s).buf = [] := by
  simp [linkDown_eq_dropConnection]

@[simp] theorem linkDown_count (s : State) : (linkDown s).count = 0 := by
  simp [linkDown_eq_dropConnection]

@[simp] theorem linkDown_fault (s : State) : (linkDown s).fault = s.fault := by
  rw [linkDown_eq_dropConnection, dropConnection_fault]
  split <;> rfl

/-! ### The decoder and RXBYTE: what they do to the flags -/

@[simp] theorem decodeFrame_connected (W : CounterWidth) (bytes : List Byte) (s : State) :
    (decodeFrame W bytes s).connected = s.connected := by
  obtain ⟨-, hconnected, -⟩ := decodeFrame_effect W bytes s
  exact hconnected

/-- A record output before the decoder runs is still there after it. -/
theorem mem_decodeFrame_out (W : CounterWidth) (bytes : List Byte) {o : Out} {s : State} (h : o ∈ s.out) :
    o ∈ (decodeFrame W bytes s).out := by
  obtain ⟨-, -, -, -, d, hout, -⟩ := decodeFrame_effect W bytes s
  rw [hout]
  exact List.mem_append_left d h

/-- Nine bytes that begin with the start marker pass the check of R135. -/
theorem decodeFrame_fault_of_shape (W : CounterWidth) {bytes : List Byte} (h9 : bytes.length = 9)
    (hstart : bytes.head? = some Config.startMarker) (s : State) :
    (decodeFrame W bytes s).fault = s.fault := by
  obtain ⟨-, -, -, hfault, -⟩ := decodeFrame_effect W bytes s
  exact hfault h9 hstart

@[simp] theorem rxByte_connected (W : CounterWidth) (b : Byte) (s : State) :
    (rxByte W b s).connected = s.connected := by
  rcases rxByte_cases W b s with ⟨-, e⟩ | ⟨-, -, -, e⟩ | ⟨-, -, -, e⟩ | ⟨-, -, -, e⟩ | ⟨-, -, e⟩ <;> simp [e]

/-- Only the case COMPLETE can set `fault`, and only with a value that fails the check of R135. -/
theorem rxByte_fault_rises {W : CounterWidth} {b : Byte} (s : State) (hs : s.fault = false)
    (ht : (rxByte W b s).fault = true) :
    s.connected = true ∧ 8 ≤ s.len ∧ Out.frameDone (s.buf ++ [b]) ∈ (rxByte W b s).out ∧
      ((s.buf ++ [b]).length ≠ 9 ∨ (s.buf ++ [b]).head? ≠ some Config.startMarker) := by
  rcases rxByte_cases W b s with ⟨-, e⟩ | ⟨-, -, -, e⟩ | ⟨-, -, -, e⟩ | ⟨-, -, -, e⟩ | ⟨hc, h8, e⟩
  case inr.inr.inr.inr =>
    rw [e] at ht ⊢
    refine ⟨hc, h8, mem_decodeFrame_out W _ (by simp), ?_⟩
    by_contra hshape
    obtain ⟨h9, hstart⟩ := not_or.1 hshape
    rw [decodeFrame_fault_of_shape W (not_not.1 h9) (not_not.1 hstart)] at ht
    simp [hs] at ht
  all_goals simp [e, hs] at ht

/-! ### Every operation: what it does to the flags -/

/-- A faulted block performs RST only (R175). -/
theorem performAt_faulted (W : CounterWidth) {i : Instr} {s : State} (hi : i ≠ .rst) (hs : s.fault = true) :
    performAt W i s = s := by
  cases i with
  | rst => exact absurd rfl hi
  | nop => rfl
  | _ => exact whenLive_faulted hs

@[simp] theorem performAt_rst (W : CounterWidth) (s : State) : performAt W .rst s = resetBlock s := rfl

theorem performAt_linkup_live (W : CounterWidth) (s : State) (hs : s.fault = false) :
    performAt W .linkup s = linkUp s := whenLive_live hs

theorem performAt_linkdown_live (W : CounterWidth) (s : State) (hs : s.fault = false) :
    performAt W .linkdown s = linkDown s := whenLive_live hs

theorem performAt_rxbyte_live (W : CounterWidth) (b : Byte) (s : State) (hs : s.fault = false) :
    performAt W (.rxbyte b) s = rxByte W b s := whenLive_live hs

theorem whenLive_connected {f : State → State} {s : State} (hf : (f s).connected = s.connected) :
    (whenLive f s).connected = s.connected := by
  unfold whenLive
  split
  · rfl
  · exact hf

/-- No operation but RST, LINKDOWN and LINKUP writes `connected`. -/
theorem performAt_connected_of_ne (W : CounterWidth) {i : Instr} (s : State) (hrst : i ≠ .rst)
    (hdown : i ≠ .linkdown) (hup : i ≠ .linkup) : (performAt W i s).connected = s.connected := by
  cases i with
  | rst => exact absurd rfl hrst
  | linkdown => exact absurd rfl hdown
  | linkup => exact absurd rfl hup
  | nop => rfl
  | rxbyte b => exact whenLive_connected (rxByte_connected W b s)
  | readCo2 | unknownCmd | pollReadCo2 => exact whenLive_connected (decodeFrame_connected W _ s)

theorem performAt_connected_rises {W : CounterWidth} {i : Instr} (s : State) (hs : s.connected = false)
    (ht : (performAt W i s).connected = true) : i = .linkup := by
  by_contra hup
  by_cases hrst : i = .rst
  · simp [hrst] at ht
  by_cases hdown : i = .linkdown
  · subst hdown
    cases hfault : s.fault with
    | false => simp [performAt_linkdown_live W s hfault] at ht
    | true => simp [performAt_faulted W hrst hfault, hs] at ht
  · simp [performAt_connected_of_ne W s hrst hdown hup, hs] at ht

theorem performAt_connected_falls {W : CounterWidth} {i : Instr} (s : State) (hs : s.connected = true)
    (ht : (performAt W i s).connected = false) : i = .linkdown ∨ i = .rst := by
  by_contra hne
  obtain ⟨hdown, hrst⟩ := not_or.1 hne
  by_cases hup : i = .linkup
  · subst hup
    cases hfault : s.fault with
    | false => simp [performAt_linkup_live W s hfault] at ht
    | true => simp [performAt_faulted W hrst hfault, hs] at ht
  · simp [performAt_connected_of_ne W s hrst hdown hup, hs] at ht

theorem performAt_fault_falls {W : CounterWidth} {i : Instr} (s : State) (hs : s.fault = true)
    (ht : (performAt W i s).fault = false) : i = .rst := by
  by_contra hrst
  simp [performAt_faulted W hrst hs, hs] at ht

/-- Of all operations only RXBYTE sets `fault`: a frame class run on its own has the shape the decoder asks for. -/
theorem performAt_fault_rises {W : CounterWidth} {i : Instr} (s : State) (hs : s.fault = false)
    (ht : (performAt W i s).fault = true) : ∃ b, i = .rxbyte b ∧ (rxByte W b s).fault = true := by
  cases i with
  | rst => simp at ht
  | linkdown => simp [performAt_linkdown_live W s hs, hs] at ht
  | linkup => simp [performAt_linkup_live W s hs, hs] at ht
  | nop => simp [performAt, hs] at ht
  | rxbyte b => exact ⟨b, rfl, by rwa [performAt_rxbyte_live W b s hs] at ht⟩
  | readCo2 | unknownCmd | pollReadCo2 =>
    rw [performAt, whenLive_live hs, decodeFrame_fault_of_shape W rfl rfl, hs] at ht
    cases ht

theorem ready_iff (s : State) :
    ready s = true ↔ s.connected = true ∧ Config.warmupThreshold ≤ s.count := by
  simp [ready]

/-! ### The statements -/

/-- Settles O51: the flags of a step, from what each operation does to them. -/
theorem flagsChangeOnlyAsStated : Obligations.FlagsChangeOnlyAsStated := by
  intro s t E hstep
  rw [step_present] at hstep
  obtain rfl := Host.Outcome.next.inj hstep
  refine ⟨performAt_connected_rises { s with out := [] }, performAt_connected_falls { s with out := [] },
    performAt_fault_falls { s with out := [] }, ?faultRises, ?afterRst, ?afterLinkup, ?afterLinkdown, ready_iff _⟩
  case faultRises =>
    intro hs ht
    obtain ⟨b, hb, hfault⟩ := performAt_fault_rises { s with out := [] } hs ht
    rw [hb, performAt_rxbyte_live _ b { s with out := [] } hs]
    exact ⟨b, rfl, rxByte_fault_rises { s with out := [] } hs hfault⟩
  case afterRst =>
    intro hE
    simp [hE]
  case afterLinkup =>
    intro hE hs
    simp [hE, performAt_linkup_live _ { s with out := [] } hs]
  case afterLinkdown =>
    intro hE hs
    simp [hE, performAt_linkdown_live _ { s with out := [] } hs]

/-- Settles O14: the reset state by its definition, each operation by the fields of the state it answers. -/
theorem resetAndLinkValues : Obligations.ResetAndLinkValues := by
  refine ⟨⟨rfl, rfl, rfl, rfl, rfl, rfl, rfl⟩, ?rst, ?linkup, ?linkdown⟩
  case rst =>
    intro s
    exact ⟨resetBlock s, exec_eq_next .rst s, by simp⟩
  case linkup =>
    intro s hs
    refine ⟨linkUp s, ?_, by simp⟩
    rw [exec_eq_next, performAt_linkup_live _ s hs]
  case linkdown =>
    intro s hs
    refine ⟨linkDown s, ?_, by simp⟩
    rw [exec_eq_next, performAt_linkdown_live _ s hs]

end Sys2Proof.Machine

/-! ## The event word (R72) -/

namespace Sys2Proof

/-! ### Bit fields at the top of a word, and masks -/

/-- The top field of a word, from bit `k` up, read as a mask and a match. -/
theorem and_highMask_eq_of_extractLsb'_eq {w k n : Nat} (hw : k + n = w) {E : BitVec w} {v : BitVec n}
    (h : E.extractLsb' k n = v) : E &&& (BitVec.allOnes w <<< k) = v.setWidth w <<< k := by
  subst h
  ext i hi
  by_cases hk : i < k
  · simp [hk]
  · have hin : i - k < n := by omega
    simp [hk, hi, hin, Nat.add_sub_cancel' (not_lt.1 hk)]

/-- A match under a mask `m` decides the match under every mask `m'` inside it. -/
theorem and_submask_eq_of_and_eq {w : Nat} {E m m' v : BitVec w} (h : E &&& m = v) (hm : m &&& m' = m') :
    E &&& m' = v &&& m' := by
  rw [← h, BitVec.and_assoc, hm]

/-! ### The operation each mask and match selects -/

theorem decodeEvent_eq_rst {E : EventWord} (h : E &&& 0x800#12 = 0x800#12) : decodeEvent E = .rst :=
  if_pos h

theorem decodeEvent_eq_linkdown {E : EventWord} (h : E &&& 0xC00#12 = 0x400#12) : decodeEvent E = .linkdown := by
  have hrst : E &&& 0x800#12 = 0#12 := and_submask_eq_of_and_eq h rfl
  simp [decodeEvent, hrst, h]

theorem decodeEvent_eq_linkup {E : EventWord} (h : E &&& 0xE00#12 = 0x200#12) : decodeEvent E = .linkup := by
  have hrst : E &&& 0x800#12 = 0#12 := and_submask_eq_of_and_eq h rfl
  have hdown : E &&& 0xC00#12 = 0#12 := and_submask_eq_of_and_eq h rfl
  simp [decodeEvent, hrst, hdown, h]

/-- With no reset and no link event, bit 8 decides whether there is a byte. -/
theorem decodeEvent_of_no_link_event {E : EventWord} (h : E &&& 0xE00#12 = 0#12) :
    decodeEvent E = if E &&& 0xF00#12 = 0x100#12 then .rxbyte (E.extractLsb' 0 8) else .nop := by
  have hrst : E &&& 0x800#12 = 0#12 := and_submask_eq_of_and_eq h rfl
  have hdown : E &&& 0xC00#12 = 0#12 := and_submask_eq_of_and_eq h rfl
  simp [decodeEvent, hrst, hdown, h]

theorem decodeEvent_eq_rxbyte {E : EventWord} (h : E &&& 0xF00#12 = 0x100#12) :
    decodeEvent E = .rxbyte (E.extractLsb' 0 8) := by
  rw [decodeEvent_of_no_link_event (and_submask_eq_of_and_eq h rfl), if_pos h]

theorem decodeEvent_eq_nop {E : EventWord} (h : E &&& 0xF00#12 = 0x000#12) : decodeEvent E = .nop := by
  rw [decodeEvent_of_no_link_event (and_submask_eq_of_and_eq h rfl), h, if_neg (by decide)]

/-! ### The canonical word of RXBYTE -/

/-- The byte stands below the operation's bit, so putting the two side by side adds them. -/
theorem encode_rxbyte (b : Byte) : encode (.rxbyte b) = .event (0x100#12 + b.zeroExtend 12) := by
  refine congrArg Code.event (BitVec.eq_of_toNat_eq ?_)
  have hb : b.toNat < 2 ^ 8 := b.isLt
  calc (0x1#4 ++ b).toNat = 1 <<< 8 ||| b.toNat := BitVec.toNat_append _ _
    _ = 1 <<< 8 + b.toNat := (Nat.shiftLeft_add_eq_or_of_lt hb 1).symm
    _ = (0x100#12 + b.zeroExtend 12).toNat := by simp; omega

/-! ### The statement -/

/-- Settles O1: the bits a clause fixes are its row's mask and match, and these select the row's operation. -/
theorem eventWordDecodesByPriority : Obligations.EventWordDecodesByPriority := by
  refine ⟨fun E => ⟨fun h => ?rst, fun h => ?linkdown, fun h => ?linkup, fun h => ?rxbyte, fun h => ?nop⟩,
    rfl, rfl, rfl, rfl, encode_rxbyte⟩
  case rst =>
    have hmask : E &&& 0x800#12 = 0x800#12 := and_highMask_eq_of_extractLsb'_eq rfl h
    exact ⟨hmask, decodeEvent_eq_rst hmask⟩
  case linkdown =>
    have hmask : E &&& 0xC00#12 = 0x400#12 := and_highMask_eq_of_extractLsb'_eq rfl h
    exact ⟨hmask, decodeEvent_eq_linkdown hmask⟩
  case linkup =>
    have hmask : E &&& 0xE00#12 = 0x200#12 := and_highMask_eq_of_extractLsb'_eq rfl h
    exact ⟨hmask, decodeEvent_eq_linkup hmask⟩
  case rxbyte =>
    have hmask : E &&& 0xF00#12 = 0x100#12 := and_highMask_eq_of_extractLsb'_eq rfl h
    exact ⟨hmask, decodeEvent_eq_rxbyte hmask⟩
  case nop =>
    have hmask : E &&& 0xF00#12 = 0x000#12 := and_highMask_eq_of_extractLsb'_eq rfl h
    exact ⟨hmask, decodeEvent_eq_nop hmask⟩

end Sys2Proof

/-! ## The Frame Assembler: the cases of RXBYTE (R100 to R105) -/

namespace Sys2Proof.Machine

/-! ### The start test -/

theorem isFrameStart_iff (len : Nat) (b : Byte) :
    isFrameStart len b = true ↔ len = 0 ∧ b = Config.startMarker := by
  simp [isFrameStart]

theorem isFrameStart_of_pos {len : Nat} (b : Byte) (h : 1 ≤ len) : isFrameStart len b = false := by
  rw [Bool.eq_false_iff, ne_eq, isFrameStart_iff]
  omega

/-! ### RXBYTE, one equation per case -/

theorem exec_rxbyte_live (b : Byte) {s : State} (hs : s.fault = false) :
    exec (.rxbyte b) s = .next (rxByte Config.countWidth b s) := by
  rw [exec_eq_next, performAt_rxbyte_live _ b s hs]

theorem rxByte_disconnected (W : CounterWidth) (b : Byte) {s : State} (hc : s.connected = false) :
    rxByte W b s = s := by
  simp [rxByte, hc]

section Connected

variable (W : CounterWidth) {b : Byte} {s : State}

theorem rxByte_start (hc : s.connected = true) (hstart : isFrameStart s.len b = true) :
    rxByte W b s = startFrame b s := by
  obtain ⟨hlen, -⟩ := (isFrameStart_iff s.len b).1 hstart
  simp [rxByte, hc, hlen, hlen ▸ hstart]

theorem rxByte_discard (hc : s.connected = true) (hlen : s.len = 0) (hstart : isFrameStart s.len b = false) :
    rxByte W b s = discardByte b s := by
  simp [rxByte, hc, hlen, hlen ▸ hstart]

theorem rxByte_append (hc : s.connected = true) (h1 : 1 ≤ s.len) (h7 : s.len ≤ 7) :
    rxByte W b s = appendByte b s := by
  have h0 : s.len ≠ 0 := by omega
  simp only [rxByte, hc, h0, h7, Bool.not_true, Bool.false_eq_true, if_false, if_true]

theorem rxByte_complete (hc : s.connected = true) (h8 : 8 ≤ s.len) :
    rxByte W b s = completeFrame W b s := by
  have h0 : s.len ≠ 0 := by omega
  have h7 : ¬ s.len ≤ 7 := by omega
  simp only [rxByte, hc, h0, h7, Bool.not_true, Bool.false_eq_true, if_false]

/-- With an empty buffer every byte but the start marker is only recorded (R101). -/
theorem rxByte_stray (hc : s.connected = true) (hbuf : s.buf = []) (hb : b ≠ Config.startMarker) :
    rxByte W b s = emit (.discarded b) s := by
  have hstart : isFrameStart s.len b = false := by
    rw [Bool.eq_false_iff, ne_eq, isFrameStart_iff]
    exact fun h => hb h.2
  exact rxByte_discard W hc (by simp [hbuf]) hstart

end Connected

/-! ### Completion -/

theorem completeFrame_eq (W : CounterWidth) (b : Byte) (s : State) :
    completeFrame W b s =
      decodeFrame W (s.buf ++ [b]) { s with buf := [], out := s.out ++ [.frameDone (s.buf ++ [b])] } := rfl

@[simp] theorem decodeFrame_buf (W : CounterWidth) (bytes : List Byte) (s : State) :
    (decodeFrame W bytes s).buf = s.buf := by
  obtain ⟨hbuf, -⟩ := decodeFrame_effect W bytes s
  exact hbuf

@[simp] theorem decodeFrame_inbox (W : CounterWidth) (bytes : List Byte) (s : State) :
    (decodeFrame W bytes s).inbox = s.inbox := by
  obtain ⟨-, -, hinbox, -⟩ := decodeFrame_effect W bytes s
  exact hinbox

@[simp] theorem completeFrame_buf (W : CounterWidth) (b : Byte) (s : State) : (completeFrame W b s).buf = [] := by
  rw [completeFrame_eq, decodeFrame_buf]

@[simp] theorem completeFrame_connected (W : CounterWidth) (b : Byte) (s : State) :
    (completeFrame W b s).connected = s.connected := by
  rw [completeFrame_eq, decodeFrame_connected]

@[simp] theorem completeFrame_inbox (W : CounterWidth) (b : Byte) (s : State) :
    (completeFrame W b s).inbox = s.inbox := by
  rw [completeFrame_eq, decodeFrame_inbox]

/-- Eight pending bytes in order and a ninth have the shape the decoder asks for, whatever the ninth is. -/
theorem completeFrame_fault (W : CounterWidth) (b : Byte) {s : State} (h8 : s.len = 8)
    (hhead : s.buf.head? = some Config.startMarker) : (completeFrame W b s).fault = s.fault := by
  have h9 : (s.buf ++ [b]).length = 9 := by simp [h8]
  have hstart : (s.buf ++ [b]).head? = some Config.startMarker := by simp [List.head?_append, hhead]
  rw [completeFrame_eq, decodeFrame_fault_of_shape W h9 hstart]

/-! ### Feeding bytes (R107) -/

/-- The canonical word of a byte decodes to RXBYTE of that byte (R72, R84). -/
@[simp] theorem decodeEvent_evRx (b : Byte) : decodeEvent (evRx b) = .rxbyte b := by
  have hop : (evRx b).extractLsb' 8 4 = 0x1#4 := BitVec.extractLsb'_append_eq_left
  have hbyte : (evRx b).extractLsb' 0 8 = b := BitVec.extractLsb'_append_eq_right
  have hmask : evRx b &&& 0xF00#12 = 0x100#12 := and_highMask_eq_of_extractLsb'_eq rfl hop
  rw [decodeEvent_eq_rxbyte hmask, hbyte]

@[simp] theorem feed_nil (s : State) : feed [] s = (s, []) := rfl

/-- Feeding a live block is RXBYTE of the first byte, then feeding the rest. -/
theorem feed_cons_live (b : Byte) (bytes : List Byte) {s : State} (hs : s.fault = false) :
    feed (b :: bytes) s =
      ((feed bytes (rxByte Config.countWidth b { s with out := [] })).1,
        (rxByte Config.countWidth b { s with out := [] }).out ++
          (feed bytes (rxByte Config.countWidth b { s with out := [] })).2) := by
  rw [← performAt_rxbyte_live _ b { s with out := [] } hs, ← decodeEvent_evRx b]
  exact runEvents_cons (evRx b) (stimRxs bytes) s

/-- A stray byte leaves the buffer empty and the connection live, so the next one meets the same case. -/
theorem feed_stray {bytes : List Byte} (hstray : ∀ b ∈ bytes, b ≠ Config.startMarker) {s : State}
    (hs : s.fault = false) (hc : s.connected = true) (hbuf : s.buf = []) :
    sameBlock (feed bytes s).1 s ∧ (feed bytes s).2 = bytes.map Out.discarded := by
  induction bytes generalizing s with
  | nil => exact ⟨sameBlock_refl s, rfl⟩
  | cons b bytes ih =>
    obtain ⟨hb, hrest⟩ := List.forall_mem_cons.1 hstray
    have hstep : rxByte Config.countWidth b { s with out := [] } = { s with out := [.discarded b] } :=
      rxByte_stray _ hc hbuf hb
    obtain ⟨hsame, hout⟩ := ih hrest (s := { s with out := [.discarded b] }) hs hc hbuf
    rw [feed_cons_live b bytes hs, hstep]
    exact ⟨hsame, congrArg (Out.discarded b :: ·) hout⟩

theorem extDiag_map_discarded (bytes : List Byte) : extDiag (bytes.map Out.discarded) = [] := by
  simp [extDiag, channelOf]

/-! ### The statements -/

/-- Settles O19: one byte by its case, a run of them by induction on the bytes. -/
theorem strayBytesAreDiscarded : Obligations.StrayBytesAreDiscarded := by
  intro s hs hc hbuf
  refine ⟨fun b hb => ?oneByte, fun bytes hstray => ?anyNumber⟩
  case oneByte =>
    rw [exec_rxbyte_live b hs, rxByte_stray _ hc hbuf hb, emit]
  case anyNumber =>
    obtain ⟨hsame, hout⟩ := feed_stray hstray hs hc hbuf
    exact ⟨hsame, hout, by rw [hout, extDiag_map_discarded]⟩

/-- Settles O17: the start test asks for both, and its first part fails inside a frame. -/
theorem frameStartOnlyOnEmptyBuffer : Obligations.FrameStartOnlyOnEmptyBuffer :=
  ⟨isFrameStart_iff, fun _ b => isFrameStart_of_pos b⟩

/-- Settles O18: the equation of each case. -/
theorem rxByteSelectsItsCase : Obligations.RxByteSelectsItsCase := by
  intro s b
  refine ⟨?ignored, fun hs hc => ?live⟩
  case ignored =>
    cases hs : s.fault with
    | true => exact fun _ => by rw [exec_eq_next, performAt_faulted _ (by simp) hs]
    | false =>
      rintro (hfault | hc)
      · cases hfault
      · rw [exec_rxbyte_live b hs, rxByte_disconnected _ b hc]
  case live =>
    rw [exec_rxbyte_live b hs]
    refine ⟨fun _ hstart => ?_, fun hlen hstart => ?_, fun h1 h7 => ?_, fun h8 => ?_⟩
    · rw [rxByte_start _ hc hstart]
    · rw [rxByte_discard _ hc hlen hstart]
    · rw [rxByte_append _ hc h1 h7]
    · rw [rxByte_complete _ hc h8.ge]

/-- Settles O20: the case START. -/
theorem startMarkerBeginsFrame : Obligations.StartMarkerBeginsFrame := by
  intro s hs hc hbuf
  have hstart : isFrameStart s.len 0xFF#8 = true := (isFrameStart_iff _ _).2 ⟨by simp [hbuf], rfl⟩
  rw [exec_rxbyte_live _ hs, rxByte_start _ hc hstart, startFrame]

/-- Settles O21: the case APPEND. -/
theorem byteInsideFrameIsAppended : Obligations.ByteInsideFrameIsAppended := by
  intro s b hs hc h1 h7
  rw [exec_rxbyte_live b hs, rxByte_append _ hc h1 h7]
  refine ⟨rfl, fun t ht => ?_⟩
  obtain rfl := Host.Outcome.next.inj ht
  have hlen : (appendByte b s).len = s.len + 1 := List.length_append
  omega

/-- Settles O23: the case COMPLETE, whose decoder never touches the buffer, the connection or the input. -/
theorem ninthByteCompletesFrame : Obligations.NinthByteCompletesFrame := by
  intro s b hs hc h8 hhead
  rw [exec_rxbyte_live b hs, rxByte_complete _ hc h8.ge]
  refine ⟨by rw [completeFrame_eq], fun t ht => ?_⟩
  obtain rfl := Host.Outcome.next.inj ht
  exact ⟨completeFrame_buf _ b s, (completeFrame_connected _ b s).trans hc,
    (completeFrame_fault _ b h8 hhead).trans hs, completeFrame_inbox _ b s⟩

end Sys2Proof.Machine

/-! ## The checksum formula (R120) -/

namespace Sys2Proof.Machine

/-! ### The sum and the checksum of a frame -/

/-- The reduction of the formula is the one the byte itself makes, so no bit of the formula's value is lost. -/
theorem checksum_toNat (f : Frame) : (checksum f).toNat = (0xFF - checksumSum f + 1) % 256 :=
  Nat.mod_mod _ _

/-- A frame's checksum from its sum: what the corner cases and the example of R120 go through. -/
theorem checksum_of_sum {f : Frame} {n : Nat} (h : checksumSum f = n) :
    checksum f = BitVec.ofNat 8 ((0xFF - n + 1) % 256) := h ▸ rfl

/-- Neither the start byte nor the checksum byte is summed (R120, conflict C10). -/
theorem checksumSum_start_cks (f : Frame) (x k : Byte) :
    checksumSum { f with start := x, cks := k } = checksumSum f := rfl

theorem checksum_start_cks (f : Frame) (x k : Byte) :
    checksum { f with start := x, cks := k } = checksum f :=
  checksum_of_sum (checksumSum_start_cks f x k)

/-- The sum may wrap around at each addition: every inner reduction is absorbed by the last one. -/
theorem toNat_byteSum_eq_checksumSum (f : Frame) :
    (f.cmd + f.d0 + f.d1 + f.d2 + f.d3 + f.d4 + f.d5).toNat = checksumSum f := by
  simp only [BitVec.toNat_add, Nat.mod_add_mod]
  rfl

/-! ### The statement -/

/-- Settles O30: the corners and the worked example by the value of the sum, the 8-bit sum by absorbing its
reductions. -/
theorem checksumFollowsFormula : Obligations.ChecksumFollowsFormula := by
  intro f
  refine ⟨checksum_toNat f, checksum_start_cks f, ?sumZero, ?sumOne, ?sumAllOnes, ?sumSignBit,
    toNat_byteSum_eq_checksumSum f, ?worked⟩
  case sumZero => exact checksum_of_sum
  case sumOne => exact checksum_of_sum
  case sumAllOnes => exact checksum_of_sum
  case sumSignBit => exact checksum_of_sum
  case worked =>
    have hsum : checksumSum ⟨0xFF#8, 0x01#8, 0x86#8, 0x00#8, 0x00#8, 0x00#8, 0x00#8, 0x00#8, f.cks⟩ = 0x87 := rfl
    exact checksum_of_sum hsum

end Sys2Proof.Machine

/-! ## The packet decoder (R135 to R138) -/

namespace Sys2Proof.Machine

/-! ### The decoder's checks, in their order -/

/-- The check of R135 fails: AssemblerInvariantViolation, whichever of its two tests it is. -/
theorem decodeFrame_of_bad_shape (W : CounterWidth) {bytes : List Byte}
    (h : bytes.length ≠ 9 ∨ bytes.head? ≠ some Config.startMarker) (s : State) :
    decodeFrame W bytes s = raiseCondition .assemblerInvariantViolation s := by
  by_cases h9 : bytes.length = 9
  · obtain ⟨f, rfl⟩ := exists_frame_of_length h9
    have hstart : f.start ≠ Config.startMarker := fun e => h.resolve_left (not_not.2 h9) (congrArg some e)
    rw [decodeFrame_frameBytes, if_neg hstart]
  · exact decodeFrame_bad_length W h9 s

/-- The check of R135 passes: the frame goes on to the checksum. -/
theorem decodeFrame_of_start (W : CounterWidth) {f : Frame} (h : f.start = Config.startMarker) (s : State) :
    decodeFrame W (frameBytes f) s = decodeChecked W f s := by
  rw [decodeFrame_frameBytes, if_pos h]

section Checked

variable (W : CounterWidth) {f : Frame} (s : State)

/-- A wrong checksum decides before the command is looked at (R123, R136). -/
theorem decodeChecked_of_checksum_ne (hsum : checksum f ≠ f.cks) :
    decodeChecked W f s = emit (.checksumMismatch (checksum f) f.cks) s := by
  rw [decodeChecked_eq, if_neg hsum]

theorem decodeChecked_of_cmd_ne (hsum : checksum f = f.cks) (hcmd : f.cmd ≠ Config.cmdReadCo2) :
    decodeChecked W f s = emit (.ignored f.cmd) s := by
  rw [decodeChecked_eq, if_pos hsum, if_neg hcmd]

theorem decodeChecked_of_cmd_eq (hsum : checksum f = f.cks) (hcmd : f.cmd = Config.cmdReadCo2) :
    decodeChecked W f s = readCo2 W f s := by
  rw [decodeChecked_eq, if_pos hsum, if_pos hcmd, readCo2]

end Checked

/-! ### The operations that hand a frame to the decoder -/

theorem exec_rxbyte_complete (b : Byte) {s : State} (hs : s.fault = false) (hc : s.connected = true)
    (h8 : s.len = 8) :
    exec (.rxbyte b) s = .next (decodeFrame Config.countWidth (s.buf ++ [b])
      { s with buf := [], out := s.out ++ [.frameDone (s.buf ++ [b])] }) := by
  rw [exec_rxbyte_live b hs, rxByte_complete _ hc h8.ge, completeFrame_eq]

/-- The completing byte of a frame that passes R135 brings it to the checksum. -/
theorem exec_rxbyte_frame {b : Byte} {s : State} {f : Frame} (hs : s.fault = false) (hc : s.connected = true)
    (h8 : s.len = 8) (hf : frameBytes f = s.buf ++ [b]) (hstart : f.start = Config.startMarker) :
    exec (.rxbyte b) s = .next (decodeChecked Config.countWidth f
      { s with buf := [], out := s.out ++ [.frameDone (frameBytes f)] }) := by
  rw [exec_rxbyte_complete b hs hc h8, ← hf, decodeFrame_of_start _ hstart]

theorem exec_readCo2_live (hi lo tt rh rl r8 k : Byte) {s : State} (hs : s.fault = false) :
    exec (.readCo2 hi lo tt rh rl r8 k) s =
      .next (decodeChecked Config.countWidth ⟨0xFF#8, 0x86#8, hi, lo, tt, rh, rl, r8, k⟩ s) :=
  congrArg Host.Outcome.next (whenLive_live hs)

theorem exec_unknownCmd_live (cmd d0 d1 d2 d3 d4 d5 k : Byte) {s : State} (hs : s.fault = false) :
    exec (.unknownCmd cmd d0 d1 d2 d3 d4 d5 k) s =
      .next (decodeChecked Config.countWidth ⟨0xFF#8, cmd, d0, d1, d2, d3, d4, d5, k⟩ s) :=
  congrArg Host.Outcome.next (whenLive_live hs)

/-! ### The measurement -/

theorem be16_le (h l : Byte) : be16 h l ≤ 65535 := by
  have hh := h.isLt
  have hl := l.isLt
  unfold be16
  omega

theorem temperatureOf_range (f : Frame) : -40 ≤ temperatureOf f ∧ temperatureOf f ≤ 215 := by
  have hraw := f.d2.isLt
  unfold temperatureOf Config.tempBias
  omega

/-! ### The statements -/

/-- Settles O36: nine bytes are a frame, and its first byte is the sequence's. -/
theorem decoderChecksFrameShape : Obligations.DecoderChecksFrameShape := by
  intro W bytes s
  refine ⟨fun h => ?badShape, fun h9 hstart => ?goodShape⟩
  case badShape =>
    rw [decodeFrame_of_bad_shape W h]
    rfl
  case goodShape =>
    obtain ⟨f, rfl⟩ := exists_frame_of_length h9
    exact ⟨f, rfl, decodeFrame_of_start W (Option.some.inj hstart) s⟩

/-- Settles O37: the case COMPLETE hands the bytes to the decoder, whose checks are taken in their order. -/
theorem firstFailingCheckDecides : Obligations.FirstFailingCheckDecides := by
  intro s b hs hc h8
  refine ⟨fun bytes hbytes hhead => ?badStart, fun f hf hstart => ?frame⟩
  case badStart =>
    subst hbytes
    rw [exec_rxbyte_complete b hs hc h8, decodeFrame_of_bad_shape _ (.inr hhead)]
    simp [raiseCondition, conditionCode, emit]
  case frame =>
    rw [exec_rxbyte_frame hs hc h8 hf hstart]
    refine ⟨fun hsum => ?badChecksum, fun hsum hcmd => ?otherCommand, fun hsum hcmd => ?readCo2⟩
    case badChecksum => simp [decodeChecked_of_checksum_ne _ _ hsum, emit]
    case otherCommand => simp [decodeChecked_of_cmd_ne _ _ hsum hcmd, emit]
    case readCo2 => rw [decodeChecked_of_cmd_eq _ _ hsum hcmd]

/-- Settles O38: the stabilizer's whole effect on the frame's measurement, and the ranges of its two fields. -/
theorem readCo2DecodesCountsAndGates : Obligations.ReadCo2DecodesCountsAndGates := by
  intro s hi lo tt rh rl r8 k hs hsum p n c hp hc hn
  subst hp hc hn
  have heffect := exec_readCo2_live hi lo tt rh rl r8 k hs
  rw [decodeChecked_of_cmd_eq _ s hsum rfl, readCo2, stabilize_eq] at heffect
  obtain ⟨hmin, hmax⟩ := temperatureOf_range ⟨0xFF#8, 0x86#8, hi, lo, tt, rh, rl, r8, k⟩
  refine ⟨heffect, be16_le hi lo, hmin, hmax, fun t ht => ?ready⟩
  case ready =>
    obtain rfl := Host.Outcome.next.inj (heffect.symm.trans ht)
    rfl

/-- Settles O39: the checksum passes and the command is not the decoded one. -/
theorem unknownCommandIsIgnored : Obligations.UnknownCommandIsIgnored := by
  intro s cmd d0 d1 d2 d3 d4 d5 k hs hcmd hsum
  rw [exec_unknownCmd_live cmd d0 d1 d2 d3 d4 d5 k hs, decodeChecked_of_cmd_ne _ s hsum hcmd, emit]

end Sys2Proof.Machine

/-! ## Link control and the top-level step (R170 to R175) -/

namespace Sys2Proof.Machine

/-! ### Steps and runs -/

theorem step_present_eq_exec (E : EventWord) (s : State) :
    step (present E s) = exec (decodeEvent E) { s with out := [] } := by
  rw [step, nextEvent_present, takeEvent_present]

/-- What every event keeps, every run keeps. -/
theorem runEvents_keeps {P : State → Prop}
    (hstep : ∀ (E : EventWord) (s : State), P s → P (performAt Config.countWidth (decodeEvent E) { s with out := [] }))
    (evs : List EventWord) {s : State} (hs : P s) : P (runEvents evs s).1 := by
  induction evs generalizing s with
  | nil => exact hs
  | cons E evs ih =>
    rw [runEvents_cons]
    exact ih (hstep E s hs)

/-! ### LINKUP -/

/-- The whole effect of LINKUP on a live block: nothing of the old connection is left (R170). -/
theorem linkUp_eq (s : State) :
    linkUp s = { s with connected := true, buf := [], count := 0, out := s.out ++ [.linkUp] } := rfl

theorem exec_linkup_live {s : State} (hs : s.fault = false) : exec .linkup s = .next (linkUp s) := by
  rw [exec_eq_next, performAt_linkup_live _ s hs]

/-- A new connection starts its warm-up again, so it is not ready. -/
@[simp] theorem ready_linkUp (s : State) : ready (linkUp s) = false := rfl

/-! ### NOP -/

theorem exec_nop (s : State) : exec .nop s = .next s := rfl

/-- The words of NOP are those with `E[11:8] = 0000` (R72). -/
theorem decodeEvent_eq_nop_of_field {E : EventWord} (h : E.extractLsb' 8 4 = 0#4) : decodeEvent E = .nop :=
  decodeEvent_eq_nop (and_highMask_eq_of_extractLsb'_eq rfl h)

theorem runEvents_nops {evs : List EventWord} (hnop : ∀ E ∈ evs, decodeEvent E = .nop) (s : State) :
    sameBlock (runEvents evs s).1 s ∧ (runEvents evs s).2 = [] := by
  induction evs generalizing s with
  | nil => exact ⟨sameBlock_refl s, rfl⟩
  | cons E evs ih =>
    obtain ⟨hE, hrest⟩ := List.forall_mem_cons.1 hnop
    rw [runEvents_cons, hE]
    exact ih hrest { s with out := [] }

/-! ### The invariant of the block (R22, R24, R27, R32, R109) -/

theorem bumpCount_countWidth_le (n : Nat) : bumpCount Config.countWidth n ≤ 255 := Nat.min_le_right _ _

/-- The decoder keeps the count within its 8 bits: it leaves it alone or saturates (R154). -/
theorem decodeFrame_count_le (bytes : List Byte) {s : State} (h : s.count ≤ 255) :
    (decodeFrame Config.countWidth bytes s).count ≤ 255 := by
  obtain ⟨-, -, -, -, _, -, -, -, hother, hco2⟩ := decodeFrame_effect Config.countWidth bytes s
  cases hv : validCo2 bytes with
  | none => exact (hother hv).1.trans_le h
  | some m => exact (hco2 m hv).1.trans_le (bumpCount_countWidth_le s.count)

theorem blockInv_reset : BlockInv State.reset := ⟨rfl, fun _ => ⟨rfl, rfl⟩, Nat.zero_le _, rfl⟩

theorem blockInv_resetBlock (s : State) : BlockInv (resetBlock s) := ⟨rfl, fun _ => ⟨rfl, rfl⟩, Nat.zero_le _, rfl⟩

theorem blockInv_linkUp {s : State} (hs : s.fault = false) : BlockInv (linkUp s) :=
  ⟨rfl, nofun, Nat.zero_le _, hs⟩

theorem blockInv_linkDown {s : State} (hs : s.fault = false) : BlockInv (linkDown s) := by
  simp [BlockInv, hs]

/-- The case COMPLETE empties the buffer, and the value it hands to the decoder passes the check of R135 because the
buffer was in order. -/
theorem blockInv_completeFrame (b : Byte) {s : State} (h : BlockInv s) (hc : s.connected = true) (h8 : 8 ≤ s.len) :
    BlockInv (completeFrame Config.countWidth b s) := by
  obtain ⟨hwf, -, hcount, hfault⟩ := h
  obtain ⟨hlen, hform⟩ := (Memory.wf_iff s.buf).1 hwf
  have hlen8 : s.len = 8 := Nat.le_antisymm hlen h8
  have hhead : s.buf.head? = some Config.startMarker := hform.resolve_left fun hbuf => by simp [State.len, hbuf] at hlen8
  refine ⟨?_, ?_, ?_, ?_⟩
  · rw [completeFrame_buf, Memory.wf_nil]
  · simp [hc]
  · exact decodeFrame_count_le _ hcount
  · rw [completeFrame_fault _ b hlen8 hhead, hfault]

theorem blockInv_rxByte (b : Byte) {s : State} (h : BlockInv s) : BlockInv (rxByte Config.countWidth b s) := by
  have ⟨hwf, _, hcount, hfault⟩ := h
  rcases rxByte_cases Config.countWidth b s with
    ⟨-, e⟩ | ⟨hc, -, hb, e⟩ | ⟨-, -, -, e⟩ | ⟨hc, h1, h7, e⟩ | ⟨hc, h8, -⟩
  case inl => rwa [e]
  case inr.inl =>
    rw [e]
    exact ⟨Memory.wf_start hb, by simp [hc], hcount, hfault⟩
  case inr.inr.inl =>
    rw [e]
    exact h
  case inr.inr.inr.inl =>
    rw [e]
    exact ⟨Memory.wf_append b hwf h1 h7, by simp [hc], hcount, hfault⟩
  case inr.inr.inr.inr =>
    rw [rxByte_complete _ hc h8]
    exact blockInv_completeFrame b h hc h8

/-- Every event keeps the invariant. (A frame class run on its own need not: it counts while disconnected.) -/
theorem blockInv_performAt_decodeEvent (E : EventWord) {s : State} (h : BlockInv s) :
    BlockInv (performAt Config.countWidth (decodeEvent E) s) := by
  have ⟨_, _, _, hfault⟩ := h
  rcases decodeEvent_cases E with hE | hE | hE | ⟨b, hE⟩ | hE <;> rw [hE]
  · exact blockInv_resetBlock s
  · rw [performAt_linkdown_live _ s hfault]
    exact blockInv_linkDown hfault
  · rw [performAt_linkup_live _ s hfault]
    exact blockInv_linkUp hfault
  · rw [performAt_rxbyte_live _ b s hfault]
    exact blockInv_rxByte b h
  · exact h

theorem blockInv_runEvents (evs : List EventWord) {s : State} (h : BlockInv s) : BlockInv (runEvents evs s).1 :=
  runEvents_keeps (P := BlockInv) (fun E _ hinv => blockInv_performAt_decodeEvent E hinv) evs h

/-! ### The statements -/

/-- Settles O7: the guard of R175 stands in every operation but RST; a run from reset keeps the invariant, of which
`fault = 0` is a part. -/
theorem stepFollowsTopLevelRule : Obligations.StepFollowsTopLevelRule := by
  refine ⟨fun s E => ⟨fun hE => ?rst, fun hE hs => ?faulted, fun _ => ?live, ?total⟩, fun evs => ?neverFaulted⟩
  case rst => rw [step_present_eq_exec, hE]
  case faulted => rw [step_present, performAt_faulted (s := { s with out := [] }) _ hE hs]
  case live => exact step_present_eq_exec E s
  case total => exact ⟨_, step_present E s⟩
  case neverFaulted =>
    obtain ⟨-, -, -, hfault⟩ := blockInv_runEvents evs blockInv_reset
    exact hfault

/-- Settles O12: every word of the run decodes to NOP, and the run is taken by induction. -/
theorem nopChangesNothing : Obligations.NopChangesNothing :=
  ⟨exec_nop, fun _ s hfield => runEvents_nops (fun E hE => decodeEvent_eq_nop_of_field (hfield E hE)) s⟩

/-- Settles O10: every word of the mask decodes to LINKUP, whose whole effect is one equation. -/
theorem linkUpOpensFreshConnection : Obligations.LinkUpOpensFreshConnection := by
  intro s hs
  refine ⟨?effect, fun E hE => ?anyWord, fun t ht => ?notReady⟩
  case effect => rw [exec_linkup_live hs, linkUp_eq]
  case anyWord =>
    rw [step_present_eq_exec, decodeEvent_eq_linkup hE, exec_linkup_live (s := { s with out := [] }) hs, linkUp_eq]
    rfl
  case notReady =>
    rw [exec_linkup_live hs] at ht
    obtain rfl := Host.Outcome.next.inj ht
    exact ⟨ready_linkUp s, linkUp_fault s⟩

end Sys2Proof.Machine

/-! ## Simultaneous input events (R197) -/

namespace Sys2Proof.Machine

/-- A step sees of its word only the operation selected, so two words of one operation are the same step. -/
theorem step_present_of_decodeEvent_eq {E C : EventWord} {i : Instr} (hE : decodeEvent E = i)
    (hC : decodeEvent C = i) (s : State) : step (present E s) = step (present C s) := by
  rw [step_present_eq_exec, step_present_eq_exec, hE, hC]

/-- Settles O15: by R72's priority the word selects its highest event's operation, which the canonical word selects
too; no lower bit, the byte's included, reaches the step. -/
theorem coincidentEventsLoseAllButTheHighest : Obligations.CoincidentEventsLoseAllButTheHighest := by
  intro s E
  obtain ⟨hpriority, -⟩ := eventWordDecodesByPriority
  obtain ⟨hrst, hlinkdown, hlinkup, -, -⟩ := hpriority E
  refine ⟨fun h => ?rst, fun h => ?linkdown, fun h => ?linkup⟩
  case rst =>
    obtain ⟨-, hE⟩ := hrst h
    exact step_present_of_decodeEvent_eq hE (decodeEvent_eq_rst rfl) s
  case linkdown =>
    obtain ⟨-, hE⟩ := hlinkdown h
    exact step_present_of_decodeEvent_eq hE (decodeEvent_eq_linkdown rfl) s
  case linkup =>
    obtain ⟨-, hE⟩ := hlinkup h
    exact step_present_of_decodeEvent_eq hE (decodeEvent_eq_linkup rfl) s

end Sys2Proof.Machine

/-! ## Frames as table words (R70 to R75, R80, R86) -/

namespace Sys2Proof

/-! ### The two readings of a frame: nine bytes and one number -/

theorem natOfBytes_frameBytes_lt (f : Frame) : natOfBytes (frameBytes f) < 2 ^ 72 := by
  obtain ⟨hlt, -⟩ := Laws.natOfBytes_frame f.start f.cmd f.d0 f.d1 f.d2 f.d3 f.d4 f.d5 f.cks
  exact hlt

theorem natOfBytes_concat (bytes : List Byte) (b : Byte) :
    natOfBytes (bytes ++ [b]) = 256 * natOfBytes bytes + b.toNat := by
  simp [natOfBytes, List.foldl_append]

/-- Each byte is a digit of the number in base 256, the last one the lowest. -/
theorem natOfBytes_digit (bytes : List Byte) (k : Nat) (hk : k < bytes.length) :
    natOfBytes bytes / 256 ^ (bytes.length - 1 - k) % 256 = bytes[k].toNat := by
  induction bytes using List.reverseRecOn with
  | nil => exact absurd hk (Nat.not_lt_zero k)
  | append_singleton bytes b ih =>
    have hb := b.isLt
    rw [natOfBytes_concat, List.length_append, List.length_singleton, Nat.add_sub_cancel]
    by_cases hlast : k < bytes.length
    · have hexponent : bytes.length - k = (bytes.length - 1 - k) + 1 := by omega
      have hshift : (256 * natOfBytes bytes + b.toNat) / 256 = natOfBytes bytes := by omega
      rw [hexponent, Nat.pow_succ', ← Nat.div_div_eq_div_mul, hshift, ih hlast, List.getElem_append_left hlast]
    · obtain rfl : k = bytes.length := by simp at hk; omega
      simp only [Nat.sub_self, Nat.pow_zero, Nat.div_one, List.getElem_concat_length]
      omega

/-- The byte at offset `k` is a digit of the vector in base 256 (R74). -/
theorem toNat_frameWordByte (F : FrameWord) (k : Nat) :
    (frameWordByte F k).toNat = F.toNat / 2 ^ (64 - 8 * k) % 256 := by
  rw [frameWordByte, BitVec.extractLsb'_toNat, Nat.shiftRight_eq_div_pow]

theorem getElem_bytesOfFrameWord (F : FrameWord) (k : Nat) (hk : k < (bytesOfFrameWord F).length) :
    (bytesOfFrameWord F)[k] = frameWordByte F k := by
  simp [bytesOfFrameWord]

/-- Reading the vector of nine bytes gives them back. -/
theorem bytesOfFrameWord_natOfBytes (f : Frame) :
    bytesOfFrameWord (BitVec.ofNat 72 (natOfBytes (frameBytes f))) = frameBytes f := by
  refine List.ext_getElem rfl fun k hk hk' => BitVec.eq_of_toNat_eq ?_
  have h9 : k < 9 := hk'
  have hpow : 2 ^ (64 - 8 * k) = 256 ^ (9 - 1 - k) := by
    rw [show 64 - 8 * k = 8 * (9 - 1 - k) by omega, Nat.pow_mul]
  refine (congrArg BitVec.toNat (getElem_bytesOfFrameWord _ k hk)).trans ?_
  rw [toNat_frameWordByte, BitVec.toNat_ofNat, Nat.mod_eq_of_lt (natOfBytes_frameBytes_lt f), hpow]
  exact natOfBytes_digit (frameBytes f) k hk'

/-- A frame vector, field by field (R73, R74). -/
def frameOfWord (F : FrameWord) : Frame :=
  ⟨F.extractLsb' 64 8, F.extractLsb' 56 8, F.extractLsb' 48 8, F.extractLsb' 40 8, F.extractLsb' 32 8,
    F.extractLsb' 24 8, F.extractLsb' 16 8, F.extractLsb' 8 8, F.extractLsb' 0 8⟩

@[simp] theorem frameBytes_frameOfWord (F : FrameWord) : frameBytes (frameOfWord F) = bytesOfFrameWord F := rfl

/-- The vector is the number of its own nine bytes: no bit of it is outside them. -/
theorem natOfBytes_bytesOfFrameWord (F : FrameWord) : natOfBytes (bytesOfFrameWord F) = F.toNat := by
  have hF := F.isLt
  simp only [bytesOfFrameWord, List.range, List.range.loop, List.map, natOfBytes, List.foldl, toNat_frameWordByte]
  omega

/-! ### Decoding a word of the table -/

theorem decodeTableWord_event (E : EventWord) : decodeTableWord 16 E.toNat = some (decodeEvent E) := by
  simp [decodeTableWord, codeOfTableWord, E.isLt, decode, Except.toOption]

theorem decodeTableWord_frame (F : FrameWord) :
    decodeTableWord 72 F.toNat = (classifyFrame (frameOfWord F)).toOption := by
  have hcode : codeOfTableWord 72 F.toNat = some (.frame (bytesOfFrameWord F)) := by
    simp [codeOfTableWord, F.isLt]
  rw [decodeTableWord, hcode]
  rfl

theorem decode_frameBytes (f : Frame) : decode (.frame (frameBytes f)) = classifyFrame f := rfl

/-- The number the table writes for a code decodes as the code does. -/
theorem decodeTableWord_tableWord_frame (f : Frame) :
    decodeTableWord 72 (natOfBytes (frameBytes f)) = (classifyFrame f).toOption := by
  have hcode : codeOfTableWord 72 (natOfBytes (frameBytes f)) = some (.frame (frameBytes f)) := by
    rw [codeOfTableWord, if_neg (by decide), if_pos rfl, if_pos (natOfBytes_frameBytes_lt f),
      bytesOfFrameWord_natOfBytes]
  rw [decodeTableWord, hcode]
  rfl

/-! ### The frame classes, in the order they are tried (R75, R80) -/

theorem classifyFrame_of_no_start {f : Frame} (h : f.start ≠ Config.startMarker) :
    classifyFrame f = .error .noStartMarker := if_pos h

theorem classifyFrame_poll {f : Frame} (h : frameBytes f = Config.pollRequest) :
    classifyFrame f = .ok .pollReadCo2 := by
  have hstart : f.start = Config.startMarker := List.head_eq_of_cons_eq h
  rw [classifyFrame, if_neg (not_not.2 hstart), if_pos h]

theorem classifyFrame_readCo2 {f : Frame} (hstart : f.start = Config.startMarker) (hcmd : f.cmd = Config.cmdReadCo2) :
    classifyFrame f = .ok (.readCo2 f.d0 f.d1 f.d2 f.d3 f.d4 f.d5 f.cks) := by
  have hpoll : frameBytes f ≠ Config.pollRequest := fun h => by
    have hcmd' : some f.cmd = some 0x01#8 := congrArg (·[1]?) h
    exact absurd (hcmd.symm.trans (Option.some.inj hcmd')) (by decide)
  rw [classifyFrame, if_neg (not_not.2 hstart), if_neg hpoll, if_pos hcmd]

theorem classifyFrame_unknownCmd {f : Frame} (hstart : f.start = Config.startMarker)
    (hpoll : frameBytes f ≠ Config.pollRequest) (hcmd : f.cmd ≠ Config.cmdReadCo2) :
    classifyFrame f = .ok (.unknownCmd f.cmd f.d0 f.d1 f.d2 f.d3 f.d4 f.d5 f.cks) := by
  rw [classifyFrame, if_neg (not_not.2 hstart), if_neg hpoll, if_neg hcmd]

/-- Every frame that begins with the start marker has a class, and its class keeps all of its bytes. -/
theorem exists_classifyFrame {f : Frame} (hstart : f.start = Config.startMarker) :
    ∃ i : Instr, i.wellFormed = true ∧ classifyFrame f = .ok i ∧ encode i = .frame (frameBytes f) := by
  by_cases hpoll : frameBytes f = Config.pollRequest
  · exact ⟨_, rfl, classifyFrame_poll hpoll, congrArg Code.frame hpoll.symm⟩
  by_cases hcmd : f.cmd = Config.cmdReadCo2
  · exact ⟨_, rfl, classifyFrame_readCo2 hstart hcmd, by simp [encode, frameBytes, hstart, hcmd]⟩
  · refine ⟨_, ?wellFormed, classifyFrame_unknownCmd hstart hpoll hcmd, by simp [encode, frameBytes, hstart]⟩
    rw [frameBytes, hstart] at hpoll
    simp only [Instr.wellFormed, Bool.and_eq_true, bne_iff_ne]
    exact ⟨hcmd, hpoll⟩

/-! ### Round trips -/

theorem decode_encode {i : Instr} (hwf : i.wellFormed = true) : decode (encode i) = .ok i := by
  cases i with
  | rst | linkdown | linkup | nop | pollReadCo2 => rfl
  | rxbyte b => exact congrArg Except.ok (Machine.decodeEvent_evRx b)
  | readCo2 hi lo tt rh rl r8 k =>
    exact classifyFrame_readCo2 (f := ⟨Config.startMarker, Config.cmdReadCo2, hi, lo, tt, rh, rl, r8, k⟩) rfl rfl
  | unknownCmd c d0 d1 d2 d3 d4 d5 k =>
    simp only [Instr.wellFormed, Bool.and_eq_true, bne_iff_ne] at hwf
    obtain ⟨hcmd, hpoll⟩ := hwf
    exact classifyFrame_unknownCmd (f := ⟨Config.startMarker, c, d0, d1, d2, d3, d4, d5, k⟩) rfl hpoll hcmd

/-- An operation's code is an event word or the bytes of a frame. -/
theorem encode_cases (i : Instr) : (∃ E, encode i = .event E) ∨ ∃ f, encode i = .frame (frameBytes f) := by
  cases i with
  | rst | linkdown | linkup | rxbyte | nop => exact .inl ⟨_, rfl⟩
  | readCo2 hi lo tt rh rl r8 k => exact .inr ⟨⟨_, _, hi, lo, tt, rh, rl, r8, k⟩, rfl⟩
  | unknownCmd c d0 d1 d2 d3 d4 d5 k => exact .inr ⟨⟨_, c, d0, d1, d2, d3, d4, d5, k⟩, rfl⟩
  | pollReadCo2 => exact .inr ⟨⟨_, _, _, _, _, _, _, _, _⟩, rfl⟩

theorem decodeTableWord_tableWord (i : Instr) :
    decodeTableWord (tableBits (encode i)) (tableWord (encode i)) = (decode (encode i)).toOption := by
  obtain ⟨E, hE⟩ | ⟨f, hf⟩ := encode_cases i
  · rw [hE]
    exact decodeTableWord_event E
  · rw [hf]
    exact decodeTableWord_tableWord_frame f

/-! ### Fields under a mask -/

/-- A field all of whose bits a mask keeps is the match's field. -/
theorem extractLsb'_eq_of_and_eq {w : Nat} {E m v : BitVec w} (k n : Nat) (h : E &&& m = v)
    (hm : m.extractLsb' k n = BitVec.allOnes n) : E.extractLsb' k n = v.extractLsb' k n := by
  rw [← h, BitVec.extractLsb'_and, hm, BitVec.and_allOnes]

/-- The first two bytes of a frame vector decide the match of READ_CO2 (R75). -/
theorem readCo2_match_of_bytes {F : FrameWord} (hstart : F.extractLsb' 64 8 = 0xFF#8)
    (hcmd : F.extractLsb' 56 8 = 0x86#8) : F &&& 0xFFFF00000000000000#72 = 0xFF8600000000000000#72 := by
  have hfield : F.extractLsb' 56 16 = 0xFF#8 ++ 0x86#8 := by
    rw [← hstart, ← hcmd]
    exact (BitVec.extractLsb'_append_extractLsb'_eq_extractLsb' (start₁ := 56) (len₁ := 8) (len₂ := 8) rfl).symm
  exact and_highMask_eq_of_extractLsb'_eq rfl hfield

/-! ### The statements -/

/-- Settles O2: the classes are tried in an order that well-formedness follows, and the table's number of a code decodes
as the code. -/
theorem decodeEncodeRoundTrip : Obligations.DecodeEncodeRoundTrip := by
  intro i hwf
  have hdecode := decode_encode hwf
  exact ⟨hdecode, by rw [decodeTableWord_tableWord, hdecode]; rfl⟩

/-- Settles O3: the class of a vector keeps all nine bytes, and these are the whole vector. -/
theorem frameWordsReencodeExactly : Obligations.FrameWordsReencodeExactly := by
  refine fun F => ⟨fun hstart => ?accepted, fun hstart => ?refused⟩
  case accepted =>
    obtain ⟨i, hwf, hclass, hencode⟩ := exists_classifyFrame (f := frameOfWord F) hstart
    refine ⟨i, hwf, by rw [decodeTableWord_frame, hclass]; rfl, by rw [hencode]; rfl, ?_⟩
    rw [hencode, tableWord, frameBytes_frameOfWord, natOfBytes_bytesOfFrameWord]
  case refused =>
    rw [decodeTableWord_frame, classifyFrame_of_no_start hstart]
    rfl

/-- Settles O4: a mask and match fix whole bytes, and these are what the classes are told apart by. -/
theorem frameClassesByMaskAndMatch : Obligations.FrameClassesByMaskAndMatch := by
  refine ⟨fun F hmatch => ?readCo2, fun F hmatch hother hliteral => ?unknownCmd, ?poll⟩
  case readCo2 =>
    have hstart : F.extractLsb' 64 8 = 0xFF#8 := extractLsb'_eq_of_and_eq 64 8 hmatch rfl
    have hcmd : F.extractLsb' 56 8 = 0x86#8 := extractLsb'_eq_of_and_eq 56 8 hmatch rfl
    rw [decodeTableWord_frame, classifyFrame_readCo2 (f := frameOfWord F) hstart hcmd]
    rfl
  case unknownCmd =>
    have hstart : F.extractLsb' 64 8 = 0xFF#8 := extractLsb'_eq_of_and_eq 64 8 hmatch rfl
    have hcmd : F.extractLsb' 56 8 ≠ 0x86#8 := fun h => hother (readCo2_match_of_bytes hstart h)
    have hpoll : frameBytes (frameOfWord F) ≠ Config.pollRequest := fun h =>
      hliteral (BitVec.eq_of_toNat_eq (by rw [← natOfBytes_bytesOfFrameWord, ← frameBytes_frameOfWord, h]; rfl))
    rw [decodeTableWord_frame, classifyFrame_unknownCmd hstart hpoll hcmd]
    rfl
  case poll =>
    exact (decodeTableWord_frame 0xFF0186000000000079#72).trans (congrArg Except.toOption (classifyFrame_poll rfl))

/-- Settles O5: each event word by its row's mask and match, each frame by its class. -/
theorem knownWordsDecode : Obligations.KnownWordsDecode := by
  refine ⟨decodeEvent_eq_rst rfl, decodeEvent_eq_linkdown rfl, decodeEvent_eq_linkup rfl, decodeEvent_eq_rxbyte rfl,
    decodeEvent_eq_nop rfl, ?readCo2, ?unknownCmd, ?poll⟩
  case readCo2 =>
    exact (decodeTableWord_frame 0xFF8601F4280000005D#72).trans
      (congrArg Except.toOption (classifyFrame_readCo2 rfl rfl))
  case unknownCmd =>
    exact (decodeTableWord_frame 0xFFFFFFFFFFFFFFFF07#72).trans
      (congrArg Except.toOption (classifyFrame_unknownCmd rfl (by decide) (by decide)))
  case poll =>
    obtain ⟨-, -, hpoll⟩ := frameClassesByMaskAndMatch
    exact hpoll

end Sys2Proof

/-! ## Runs, and what a step does not depend on (R8, R61, R63, R107, R175, R207) -/

namespace Sys2Proof.Machine

/-! ### An operation that only appends to the outputs -/

/-- The operation appends some records to the outputs and leaves the input alone, and nothing else it does depends on
either. -/
def AppendsOnly (f : State → State) : Prop :=
  ∀ s : State, ∃ d : List Out, ∀ (o : List Out) (q : List EventWord),
    f { s with out := o, inbox := q } = { f s with out := o ++ d, inbox := q }

theorem appendsOnly_id : AppendsOnly id := fun _ => ⟨[], fun o _ => by simp⟩

theorem appendsOnly_emit (r : Out) : AppendsOnly (emit r) := fun _ => ⟨[r], fun _ _ => rfl⟩

theorem appendsOnly_comp {f g : State → State} (hg : AppendsOnly g) (hf : AppendsOnly f) : AppendsOnly (g ∘ f) := by
  intro s
  obtain ⟨d, hd⟩ := hf s
  obtain ⟨e, he⟩ := hg (f s)
  refine ⟨d ++ e, fun o q => ?_⟩
  rw [Function.comp_apply, hd, he, ← List.append_assoc]
  rfl

theorem appendsOnly_whenLive {f : State → State} (hf : AppendsOnly f) : AppendsOnly (whenLive f) := by
  intro s
  cases hs : s.fault with
  | true => exact ⟨[], fun o q => by simp [whenLive, hs]⟩
  | false =>
    obtain ⟨d, hd⟩ := hf s
    exact ⟨d, fun o q => by simpa [whenLive, hs] using hd o q⟩

theorem appendsOnly_resetBlock : AppendsOnly resetBlock := fun _ => ⟨[], fun o _ => by simp [resetBlock]⟩

theorem appendsOnly_linkUp : AppendsOnly linkUp := fun _ => ⟨[.linkUp], fun _ _ => rfl⟩

theorem appendsOnly_linkDown : AppendsOnly linkDown := by
  intro s
  cases hc : s.connected with
  | true => exact ⟨[.linkLost], fun o q => by simp [linkDown_eq_dropConnection, hc, dropConnection, emit]⟩
  | false => exact ⟨[], fun o q => by simp [linkDown_eq_dropConnection, hc, dropConnection]⟩

theorem appendsOnly_raiseFatal : AppendsOnly (raiseCondition .assemblerInvariantViolation) :=
  fun _ => ⟨[.fault 5], fun _ _ => rfl⟩

theorem appendsOnly_stabilize (W : CounterWidth) (m : Measurement) : AppendsOnly (stabilize W m) :=
  fun s => ⟨[.decoded m.ppm m.temperatureCelsius (bumpCount W s.count)] ++
    if Config.warmupThreshold ≤ bumpCount W s.count then [.report m.ppm m.temperatureCelsius] else [],
    fun _ _ => by simp only [stabilize_eq, List.append_assoc]⟩

theorem appendsOnly_decodeChecked (W : CounterWidth) (f : Frame) : AppendsOnly (decodeChecked W f) := by
  by_cases hsum : checksum f = f.cks
  · by_cases hcmd : f.cmd = Config.cmdReadCo2
    · rw [show decodeChecked W f = stabilize W (measurementOf f) from
        funext fun s => decodeChecked_of_cmd_eq W s hsum hcmd]
      exact appendsOnly_stabilize W _
    · rw [show decodeChecked W f = emit (.ignored f.cmd) from funext fun s => decodeChecked_of_cmd_ne W s hsum hcmd]
      exact appendsOnly_emit _
  · rw [show decodeChecked W f = emit (.checksumMismatch (checksum f) f.cks) from
      funext fun s => decodeChecked_of_checksum_ne W s hsum]
    exact appendsOnly_emit _

theorem appendsOnly_decodeFrame (W : CounterWidth) (bytes : List Byte) : AppendsOnly (decodeFrame W bytes) := by
  by_cases h : bytes.length ≠ 9 ∨ bytes.head? ≠ some Config.startMarker
  · rw [funext (decodeFrame_of_bad_shape W h)]
    exact appendsOnly_raiseFatal
  · obtain ⟨h9, hstart⟩ := not_or.1 h
    obtain ⟨f, rfl⟩ := exists_frame_of_length (not_not.1 h9)
    rw [funext (decodeFrame_of_start W (Option.some.inj (not_not.1 hstart)))]
    exact appendsOnly_decodeChecked W f

theorem appendsOnly_rxByte (W : CounterWidth) (b : Byte) : AppendsOnly (rxByte W b) := by
  intro s
  rcases rxByte_cases W b s with ⟨hc, -⟩ | ⟨hc, hbuf, hb, -⟩ | ⟨hc, hbuf, hb, -⟩ | ⟨hc, h1, h7, -⟩ | ⟨hc, h8, -⟩
  case inl => exact ⟨[], fun o q => by simp [rxByte_disconnected, hc]⟩
  case inr.inl =>
    have hstart : isFrameStart s.len b = true := (isFrameStart_iff _ _).2 ⟨by simp [hbuf], hb⟩
    exact ⟨[], fun o q => by simp only [rxByte_start W (s := { s with out := o, inbox := q }) hc hstart,
      rxByte_start W hc hstart, startFrame, List.append_nil]⟩
  case inr.inr.inl =>
    exact ⟨[.discarded b], fun o q => by simp only [rxByte_stray W (s := { s with out := o, inbox := q }) hc hbuf hb,
      rxByte_stray W hc hbuf hb, emit]⟩
  case inr.inr.inr.inl =>
    exact ⟨[], fun o q => by simp only [rxByte_append W (s := { s with out := o, inbox := q }) hc h1 h7,
      rxByte_append W hc h1 h7, appendByte, List.append_nil]⟩
  case inr.inr.inr.inr =>
    obtain ⟨d, hd⟩ := appendsOnly_comp (appendsOnly_decodeFrame W (s.buf ++ [b]))
      (appendsOnly_emit (.frameDone (s.buf ++ [b]))) { s with buf := [] }
    exact ⟨d, fun o q => by
      rw [rxByte_complete W (s := { s with out := o, inbox := q }) hc h8, rxByte_complete W hc h8]
      exact hd o q⟩

/-- Every operation only appends to the outputs (R207). -/
theorem appendsOnly_performAt (W : CounterWidth) (i : Instr) : AppendsOnly (performAt W i) := by
  cases i with
  | rst => exact appendsOnly_resetBlock
  | linkdown => exact appendsOnly_whenLive appendsOnly_linkDown
  | linkup => exact appendsOnly_whenLive appendsOnly_linkUp
  | rxbyte b => exact appendsOnly_whenLive (appendsOnly_rxByte W b)
  | nop => exact appendsOnly_id
  | readCo2 | unknownCmd | pollReadCo2 => exact appendsOnly_whenLive (appendsOnly_decodeFrame W _)

/-! ### Runs from states that agree in the block's fields -/

/-- States that agree in the block's fields differ in the model's two own fields only. -/
theorem eq_of_sameBlock {s t : State} (h : sameBlock s t) : t = { s with out := t.out, inbox := t.inbox } := by
  obtain ⟨hconnected, hbuf, hcount, hfault⟩ := h
  cases t
  simp_all

theorem performAt_sameBlock (W : CounterWidth) (i : Instr) {s t : State} (h : sameBlock s t) :
    sameBlock (performAt W i { s with out := [] }) (performAt W i { t with out := [] }) ∧
      (performAt W i { s with out := [] }).out = (performAt W i { t with out := [] }).out := by
  obtain ⟨d, hd⟩ := appendsOnly_performAt W i s
  have hs : performAt W i { s with out := [] } = { performAt W i s with out := d, inbox := s.inbox } := hd [] s.inbox
  have ht : performAt W i { t with out := [] } = { performAt W i s with out := d, inbox := t.inbox } := by
    rw [eq_of_sameBlock h]
    exact hd [] t.inbox
  rw [hs, ht]
  exact ⟨⟨rfl, rfl, rfl, rfl⟩, rfl⟩

/-- A run sees of its first state the block's fields only. -/
theorem runEvents_sameBlock (evs : List EventWord) {s t : State} (h : sameBlock s t) :
    sameBlock (runEvents evs s).1 (runEvents evs t).1 ∧ (runEvents evs s).2 = (runEvents evs t).2 := by
  induction evs generalizing s t with
  | nil => exact ⟨h, rfl⟩
  | cons E evs ih =>
    obtain ⟨hstep, hout⟩ := performAt_sameBlock Config.countWidth (decodeEvent E) h
    obtain ⟨hrun, houts⟩ := ih hstep
    rw [runEvents_cons, runEvents_cons]
    exact ⟨hrun, by rw [hout, houts]⟩

/-! ### Composing runs -/

theorem runEvents_append (u v : List EventWord) (s : State) :
    runEvents (u ++ v) s =
      ((runEvents v (runEvents u s).1).1, (runEvents u s).2 ++ (runEvents v (runEvents u s).1).2) := by
  induction u generalizing s with
  | nil => rfl
  | cons E u ih => simp only [List.cons_append, runEvents_cons, ih, List.append_assoc]

theorem feed_append (u v : List Byte) (s : State) :
    feed (u ++ v) s = ((feed v (feed u s).1).1, (feed u s).2 ++ (feed v (feed u s).1).2) := by
  simp only [feed, stimRxs, List.map_append, runEvents_append]

/-- Events that leave a state's fields as they are and output nothing, do so in any number. -/
theorem runEvents_silent {evs : List EventWord} {s : State}
    (hsilent : ∀ E ∈ evs, ∀ t, sameBlock t s →
      performAt Config.countWidth (decodeEvent E) { t with out := [] } = { t with out := [] }) :
    sameBlock (runEvents evs s).1 s ∧ (runEvents evs s).2 = [] := by
  suffices hrun : ∀ t, sameBlock t s → sameBlock (runEvents evs t).1 s ∧ (runEvents evs t).2 = [] from
    hrun s (sameBlock_refl s)
  induction evs with
  | nil => exact fun t ht => ⟨ht, rfl⟩
  | cons E evs ih =>
    intro t ht
    obtain ⟨hE, hrest⟩ := List.forall_mem_cons.1 hsilent
    rw [runEvents_cons, hE t ht]
    exact ih hrest { t with out := [] } ht

/-- A NOP may be taken out of a run. -/
theorem runEvents_cons_nop {E : EventWord} (hE : decodeEvent E = .nop) (evs : List EventWord) (s : State) :
    runEvents (E :: evs) s = runEvents evs { s with out := [] } := by
  rw [runEvents_cons, hE]
  rfl

theorem runEvents_filter_nop (evs : List EventWord) (s : State) :
    sameBlock (runEvents evs s).1 (runEvents (evs.filter fun E => !isNop E) s).1 ∧
      (runEvents evs s).2 = (runEvents (evs.filter fun E => !isNop E) s).2 := by
  induction evs generalizing s with
  | nil => exact ⟨sameBlock_refl s, rfl⟩
  | cons E evs ih =>
    by_cases hE : decodeEvent E = .nop
    · have hforget : sameBlock { s with out := [] } s := ⟨rfl, rfl, rfl, rfl⟩
      obtain ⟨hsame, hout⟩ := runEvents_sameBlock evs hforget
      obtain ⟨hsame', hout'⟩ := ih s
      rw [List.filter_cons_of_neg (by simp [isNop, hE]), runEvents_cons_nop hE]
      exact ⟨sameBlock_trans hsame hsame', hout.trans hout'⟩
    · obtain ⟨hsame, hout⟩ := ih (performAt Config.countWidth (decodeEvent E) { s with out := [] })
      rw [List.filter_cons_of_pos (by simp [isNop, hE]), runEvents_cons, runEvents_cons]
      exact ⟨hsame, by rw [hout]⟩

/-! ### RST and the idle block -/

/-- Disconnected, with nothing held and not faulted, the block does nothing without a LINKUP. -/
theorem performAt_reset_silent {E : EventWord} (hE : decodeEvent E ≠ .linkup) {s : State}
    (hs : sameBlock s State.reset) : performAt Config.countWidth (decodeEvent E) s = s := by
  obtain ⟨hconnected, hbuf, hcount, hfault⟩ := hs
  have hidle : { s with connected := false, buf := [], count := 0, fault := false } = s := by
    cases s
    simp_all [State.reset]
  rcases decodeEvent_cases E with h | h | h | ⟨b, h⟩ | h
  · rw [h]
    exact hidle
  · rw [h, performAt_linkdown_live _ s hfault, linkDown_eq_dropConnection, hconnected, ← hidle]
    rfl
  · exact absurd h hE
  · rw [h, performAt_rxbyte_live _ b s hfault, rxByte_disconnected _ b hconnected]
  · rw [h]
    rfl

/-- What a link operation leaves of the block is the same from every state (R35, R63). -/
theorem linkOperation_sameBlock {i : Instr} {s₁ s₂ : State}
    (hi : i = .rst ∨ ((i = .linkdown ∨ i = .linkup) ∧ s₁.fault = false ∧ s₂.fault = false)) :
    sameBlock (performAt Config.countWidth i s₁) (performAt Config.countWidth i s₂) := by
  rcases hi with rfl | ⟨rfl | rfl, h₁, h₂⟩
  · exact ⟨rfl, rfl, rfl, rfl⟩
  · rw [performAt_linkdown_live _ s₁ h₁, performAt_linkdown_live _ s₂ h₂]
    simp [sameBlock, h₁, h₂]
  · rw [performAt_linkup_live _ s₁ h₁, performAt_linkup_live _ s₂ h₂]
    simp [sameBlock, h₁, h₂]

/-! ### The statements -/

/-- Settles O52: a step is an operation of the event format, and each of these keeps the invariant. -/
theorem stepKeepsInvariant : Obligations.StepKeepsInvariant := by
  intro s t hs hstep
  rw [step, exec_eq_next] at hstep
  obtain rfl := Host.Outcome.next.inj hstep
  exact blockInv_performAt_decodeEvent (nextEvent s) hs

/-- Settles O53: the reset state holds nothing and is not faulted. -/
theorem resetMeetsInvariant : Obligations.ResetMeetsInvariant := blockInv_reset

/-- Settles O56: every operation only appends, so the records it appends are the difference. -/
theorem outputsNeverInfluenceBehaviour : Obligations.OutputsNeverInfluenceBehaviour := by
  intro i s t hexec
  rw [exec_eq_next] at hexec
  obtain rfl := Host.Outcome.next.inj hexec
  obtain ⟨d, hd⟩ := appendsOnly_performAt Config.countWidth i s
  have hself : performAt Config.countWidth i s =
      { performAt Config.countWidth i s with out := s.out ++ d, inbox := s.inbox } := hd s.out s.inbox
  refine ⟨by rw [hself], d, by rw [hself], fun o q => ?_⟩
  rw [exec_eq_next, hd o q]

/-- Settles O6: the event is the head of the input, and with none there its word is a NOP. -/
theorem stepRunsDecodedInstruction : Obligations.StepRunsDecodedInstruction := by
  refine ⟨fun s E rest hinbox => ?presented, fun s hinbox => ?idle⟩
  case presented =>
    have hs : s = present E { s with inbox := rest } := by rw [present, ← hinbox]
    rw [hs, step_present_eq_exec]
    rfl
  case idle =>
    have hevent : decodeEvent (nextEvent s) = .nop := by
      rw [nextEvent, hinbox]
      exact decodeEvent_eq_nop rfl
    rw [step, hevent, takeEvent, hinbox, List.tail_nil, ← hinbox]

/-- Settles O9: by induction on the events, as each step is the total operation. -/
theorem runsAreFoldsOfTheStep : Obligations.RunsAreFoldsOfTheStep := by
  intro evs
  induction evs with
  | nil => exact fun _ => rfl
  | cons E evs ih =>
    intro s
    simp only [runEvents_cons, ih]
    rfl

/-- Settles O13: RST sets every field, a faulted block does nothing else, and the reset state waits for a LINKUP. -/
theorem rstClearsEverything : Obligations.RstClearsEverything := by
  refine ⟨fun _ => rfl, fun s E hfield => ?anyWord, fun i s hi hs => ?faulted, fun evs hevs => ?idle⟩
  case anyWord =>
    have hE : decodeEvent E = .rst := decodeEvent_eq_rst (and_highMask_eq_of_extractLsb'_eq rfl hfield)
    rw [step_present, hE]
    rfl
  case faulted => rw [exec_eq_next, performAt_faulted _ hi hs]
  case idle => exact runEvents_silent fun E hE _ ht => performAt_reset_silent (hevs E hE) ht

/-- Settles O43: a faulted block ignores every event but RST, so its fields stay as they are and the next event is
ignored too. -/
theorem faultIsStuckUntilReset : Obligations.FaultIsStuckUntilReset := by
  intro s evs hs hevs
  refine runEvents_silent fun E hE t ht => ?_
  obtain ⟨-, -, -, hfault⟩ := ht
  exact performAt_faulted (s := { t with out := [] }) _ (hevs E hE) (hfault.trans hs)

/-- Settles O16: both blocks agree after the link operation, and a run sees no more than that. -/
theorem linkOperationsAreBarriers : Obligations.LinkOperationsAreBarriers := by
  intro E s₁ s₂ t₁ t₂ evs hE h₁ h₂
  rw [step_present] at h₁ h₂
  obtain rfl := Host.Outcome.next.inj h₁
  obtain rfl := Host.Outcome.next.inj h₂
  have hsame := linkOperation_sameBlock (s₁ := { s₁ with out := [] }) (s₂ := { s₂ with out := [] }) hE
  obtain ⟨hrun, hout⟩ := runEvents_sameBlock evs hsame
  exact ⟨hsame, hout, hrun⟩

/-- Settles O26: a run of a concatenation composes, and a NOP leaves a state no run can tell apart. -/
theorem chunkingIsInvisible : Obligations.ChunkingIsInvisible :=
  ⟨fun s u v => by simp [feed_append], runEvents_filter_nop⟩

/-- Settles O11: both branches of LINKDOWN drop the connection, and the invariant leaves a disconnected block nothing to
drop. -/
theorem linkDownDiscardsConnection : Obligations.LinkDownDiscardsConnection := by
  intro s hs
  have heffect : ∀ o : List Out, exec .linkdown { s with out := o } = .next { s with
      connected := false, buf := [], count := 0, out := o ++ if s.connected then [.linkLost] else [] } := fun o => by
    rw [exec_eq_next, performAt_linkdown_live _ { s with out := o } hs, linkDown_eq_dropConnection]
    cases s.connected <;> simp [dropConnection, emit, Memory.cleared]
  refine ⟨heffect s.out, fun E hE => ?anyWord, fun t ht => ?notReady, fun hinv hc => ?nothingToDrop⟩
  case anyWord => rw [step_present_eq_exec, decodeEvent_eq_linkdown hE, heffect []]; rfl
  case notReady =>
    obtain rfl := Host.Outcome.next.inj ((heffect s.out).symm.trans ht)
    rfl
  case nothingToDrop =>
    obtain ⟨-, hempty, -, -⟩ := hinv
    obtain ⟨hbuf, hcount⟩ := hempty hc
    refine (heffect s.out).trans (congrArg Host.Outcome.next ?_)
    cases s
    simp_all

end Sys2Proof.Machine

/-! ## What the checksum accepts (R121 to R126) -/

namespace Sys2Proof.Machine

/-! ### The checksum as a sum of bytes -/

/-- The checksum is the negation of the sum the bytes themselves make (R121 form a). -/
theorem checksum_eq_neg_byteSum (f : Frame) :
    checksum f = -(f.cmd + f.d0 + f.d1 + f.d2 + f.d3 + f.d4 + f.d5) := by
  apply BitVec.eq_of_toNat_eq
  have hlt : checksumSum f < 256 := Nat.mod_lt _ (by decide)
  rw [checksum_toNat, BitVec.toNat_neg, toNat_byteSum_eq_checksumSum]
  omega

/-- Offsets 1 to 8 sum to zero, in bytes. -/
theorem checksumValid_iff_sum (f : Frame) : checksumValid f ↔ (frameBytes f).tail.sum = 0 := by
  have hsum : ((frameBytes f).tail.sum).toNat = (f.cmd.toNat + f.d0.toNat + f.d1.toNat + f.d2.toNat + f.d3.toNat +
      f.d4.toNat + f.d5.toNat + f.cks.toNat) % 256 := by
    simp only [frameBytes, List.tail_cons, List.sum_cons, List.sum_nil, BitVec.toNat_add, Nat.add_mod_mod]
    simp [Nat.add_assoc]
  rw [checksumValid, ← hsum]
  exact BitVec.toNat_inj (y := 0#8)

theorem checksum_eq_cks_iff (f : Frame) : checksum f = f.cks ↔ checksumValid f := by
  rw [checksum_eq_neg_byteSum, neg_eq_iff_add_eq_zero, checksumValid_iff_sum]
  simp [frameBytes, add_assoc]

theorem validate_eq_valid_iff (f : Frame) : validate f = .valid f ↔ checksum f = f.cks := by
  simp [validate_valid_iff]

/-- The checksum byte is no part of what is summed. -/
theorem checksum_with_cks (f : Frame) (k : Byte) : checksum { f with cks := k } = checksum f :=
  checksum_start_cks f f.start k

/-- A frame read from nine bytes is valid when these sum to zero but for the first. -/
theorem checksumValid_of_frameOfBytes? {bytes : List Byte} {g : Frame} (h : frameOfBytes? bytes = some g) :
    checksumValid g ↔ bytes.tail.sum = 0 := by
  rw [checksumValid_iff_sum, frameOfBytes?_eq_some h]

/-- Writing a byte behind the first moves the sum by the difference. -/
theorem sum_tail_set {bytes : List Byte} {k : Nat} {old : Byte} (hk : 1 ≤ k) (hold : bytes[k]? = some old)
    (new : Byte) : (bytes.set k new).tail.sum = bytes.tail.sum + (new - old) := by
  obtain ⟨k, rfl⟩ := Nat.exists_eq_add_of_le' hk
  cases bytes with
  | nil => simp at hold
  | cons b bytes =>
    obtain ⟨hlt, rfl⟩ := List.getElem?_eq_some_iff.1 ((List.getElem?_cons_succ).symm.trans hold)
    rw [List.set_cons_succ, List.tail_cons, List.tail_cons, List.sum_set', dif_pos hlt, neg_add_eq_sub]

/-! ### The statements -/

/-- Settles O31: all three forms from the checksum as the negated sum of the bytes. -/
theorem checksumEquivalentForms : Obligations.ChecksumEquivalentForms := by
  intro f
  have hneg : checksum f = -(BitVec.ofNat 8 (checksumSum f)) := by
    rw [checksum_eq_neg_byteSum, ← toNat_byteSum_eq_checksumSum, BitVec.ofNat_toNat, BitVec.setWidth_eq]
  refine ⟨⟨?modular, hneg⟩, ?complement, ?zeroSum⟩
  case modular =>
    have hlt : checksumSum f < 256 := Nat.mod_lt _ (by decide)
    rw [checksum_toNat]
    omega
  case complement =>
    rw [hneg, BitVec.neg_eq_not_add, ← BitVec.xor_allOnes]
    rfl
  case zeroSum => rw [validate_eq_valid_iff, checksum_eq_cks_iff]

/-- Settles O32: the verdict by the comparison it rests on. -/
theorem validateComparesExactly : Obligations.ValidateComparesExactly := by
  refine fun f => ⟨fun h => ?equal, fun h => ?different, fun g => (validate_valid_iff f g).1, rfl⟩
  case equal => rw [validate_eq, if_pos h]
  case different => rw [validate_eq, if_neg h]

/-- Settles O33: the checksum does not look at the byte it is put in the place of. -/
theorem checksumRoundTrip : Obligations.ChecksumRoundTrip :=
  fun p1 p2 p3 p4 p5 p6 p7 x =>
    (validate_eq_valid_iff _).2 (checksum_with_cks ⟨0xFF#8, p1, p2, p3, p4, p5, p6, p7, x⟩ _)

/-- Settles O35: each change by what it does to the sum of offsets 1 to 8. -/
theorem checksumCatchesSingleByteErrors : Obligations.ChecksumCatchesSingleByteErrors := by
  refine ⟨fun f g k v hf h1 h8 hv hg => ?oneByte, fun f g hperm hcks hf => ?reordered,
    fun f g i j x y d hf hi _ hj _ hij hx hy hg => ?cancelling, fun f x hf => hf⟩
  case oneByte =>
    obtain ⟨old, hold⟩ : ∃ old, (frameBytes f)[k]? = some old :=
      ⟨_, List.getElem?_eq_getElem (Nat.lt_succ_of_le h8)⟩
    rw [checksumValid_of_frameOfBytes? hg, sum_tail_set h1 hold, (checksumValid_iff_sum f).1 hf, zero_add,
      sub_eq_zero]
    rintro rfl
    exact hv hold
  case reordered =>
    have hsplit : ∀ h : Frame, (frameBytes h).tail.sum = (((frameBytes h).drop 1).take 7).sum + h.cks := fun h => by
      simp [frameBytes, add_assoc]
    rw [checksumValid_iff_sum, hsplit] at hf ⊢
    rw [← hperm.sum_eq, ← hcks, hf]
  case cancelling =>
    have hy' : ((frameBytes f).set i (x + d))[j]? = some y := by rw [List.getElem?_set_ne hij, hy]
    rw [checksumValid_of_frameOfBytes? hg, sum_tail_set hj hy', sum_tail_set hi hx, (checksumValid_iff_sum f).1 hf]
    abel

end Sys2Proof.Machine

/-! ## What one step can do (R100 to R104, R135 to R138, R150, R151, R170 to R175) -/

namespace Sys2Proof.Machine

/-! ### The cases of a step -/

/-- A live, connected block whose buffer the next byte completes to a value (R104). -/
structure Completing (s : State) (b : Byte) (value : List Byte) : Prop where
  live : s.fault = false
  connected : s.connected = true
  len : 8 ≤ s.len
  value_eq : value = s.buf ++ [b]

/-- Every case of a step of the operation `i`: when it applies, and the whole next state. -/
inductive StepCase (s : State) : Instr → State → Prop where
  | ignored {i : Instr}
      (h : i = .nop ∨ (i ≠ .rst ∧ s.fault = true) ∨ ((∃ b, i = .rxbyte b) ∧ s.connected = false)) :
      StepCase s i { s with out := [] }
  | rst : StepCase s .rst { s with connected := false, buf := [], count := 0, fault := false, out := [] }
  | linkdown (hs : s.fault = false) : StepCase s .linkdown { s with
      connected := false, buf := [], count := 0, out := if s.connected then [.linkLost] else [] }
  | linkup (hs : s.fault = false) : StepCase s .linkup { s with
      connected := true, buf := [], count := 0, out := [.linkUp] }
  | start (hs : s.fault = false) (hc : s.connected = true) (hbuf : s.buf = []) :
      StepCase s (.rxbyte Config.startMarker) { s with buf := [Config.startMarker], out := [] }
  | discard {b : Byte} (hs : s.fault = false) (hc : s.connected = true) (hbuf : s.buf = [])
      (hb : b ≠ Config.startMarker) : StepCase s (.rxbyte b) { s with out := [.discarded b] }
  | append {b : Byte} (hs : s.fault = false) (hc : s.connected = true) (h1 : 1 ≤ s.len) (h7 : s.len ≤ 7) :
      StepCase s (.rxbyte b) { s with buf := s.buf ++ [b], out := [] }
  | badShape {b : Byte} {v : List Byte} (hcomplete : Completing s b v) (hv : validCo2 v = none)
      (hshape : v.length ≠ 9 ∨ v.head? ≠ some Config.startMarker) :
      StepCase s (.rxbyte b) { s with buf := [], fault := true, out := [.frameDone v, .fault 5] }
  | mismatch {b : Byte} {v : List Byte} {expected actual : Byte} (hcomplete : Completing s b v)
      (hv : validCo2 v = none) :
      StepCase s (.rxbyte b) { s with buf := [], out := [.frameDone v, .checksumMismatch expected actual] }
  | unknown {b : Byte} {v : List Byte} {cmd : Byte} (hcomplete : Completing s b v) (hv : validCo2 v = none) :
      StepCase s (.rxbyte b) { s with buf := [], out := [.frameDone v, .ignored cmd] }
  | unreported {b : Byte} {v : List Byte} {m : Measurement} (hcomplete : Completing s b v)
      (hv : validCo2 v = some m) (hcount : s.count < 19) :
      StepCase s (.rxbyte b) { s with
        buf := [], count := s.count + 1
        out := [.frameDone v, .decoded m.ppm m.temperatureCelsius (s.count + 1)] }
  | reported {b : Byte} {v : List Byte} {m : Measurement} (hcomplete : Completing s b v)
      (hv : validCo2 v = some m) (hcount : 19 ≤ s.count) :
      StepCase s (.rxbyte b) { s with
        buf := [], count := min (s.count + 1) 255
        out := [.frameDone v, .decoded m.ppm m.temperatureCelsius (min (s.count + 1) 255),
          .report m.ppm m.temperatureCelsius] }

/-- The decoder's cases are the completing byte's. -/
theorem stepCase_complete {s : State} {b : Byte} (hs : s.fault = false) (hc : s.connected = true) (h8 : 8 ≤ s.len) :
    StepCase s (.rxbyte b) (completeFrame Config.countWidth b { s with out := [] }) := by
  have hcomplete : Completing s b (s.buf ++ [b]) := ⟨hs, hc, h8, rfl⟩
  rw [completeFrame_eq]
  rcases decodeFrame_cases Config.countWidth (s.buf ++ [b])
      { s with buf := [], out := [.frameDone (s.buf ++ [b])] } with
    ⟨hv, e, hshape⟩ | ⟨expected, actual, hv, e⟩ | ⟨cmd, hv, e⟩ | ⟨m, hv, e⟩
  · exact e ▸ .badShape hcomplete hv hshape
  · exact e ▸ .mismatch hcomplete hv
  · exact e ▸ .unknown hcomplete hv
  · have hbump : bumpCount Config.countWidth s.count = min (s.count + 1) 255 := rfl
    simp only [List.nil_append, e, stabilize_eq, hbump]
    by_cases hcount : 19 ≤ s.count
    · have hthreshold : Config.warmupThreshold ≤ min (s.count + 1) 255 :=
        le_min (Nat.succ_le_succ hcount) (by decide)
      rw [if_pos hthreshold]
      exact .reported hcomplete hv hcount
    · have hthreshold : ¬ Config.warmupThreshold ≤ min (s.count + 1) 255 := by
        have hle := Nat.min_le_left (s.count + 1) 255
        exact Nat.not_le.2 (by show _ < 20; omega)
      have hmin : min (s.count + 1) 255 = s.count + 1 := Nat.min_eq_left (by omega)
      rw [if_neg hthreshold, hmin]
      exact .unreported hcomplete hv (by omega)

theorem stepCase_rxByte {s : State} (b : Byte) (hs : s.fault = false) :
    StepCase s (.rxbyte b) (rxByte Config.countWidth b { s with out := [] }) := by
  rcases rxByte_cases Config.countWidth b { s with out := [] } with
    ⟨hc, e⟩ | ⟨hc, hbuf, hb, e⟩ | ⟨hc, hbuf, hb, e⟩ | ⟨hc, h1, h7, e⟩ | ⟨hc, h8, -⟩
  · rw [e]
    exact .ignored (.inr (.inr ⟨⟨b, rfl⟩, hc⟩))
  · rw [e, hb]
    exact .start hs hc hbuf
  · rw [e]
    exact .discard hs hc hbuf hb
  · rw [e]
    exact .append hs hc h1 h7
  · rw [rxByte_complete _ hc h8]
    exact stepCase_complete hs hc h8

/-- A step is one of the cases. -/
theorem stepCase_of_step {s t : State} {E : EventWord} (hstep : step (present E s) = .next t) :
    StepCase s (decodeEvent E) t := by
  rw [step_present] at hstep
  obtain rfl := Host.Outcome.next.inj hstep
  by_cases hrst : decodeEvent E = .rst
  · rw [hrst]
    exact .rst
  rcases Bool.eq_false_or_eq_true s.fault with hs | hs
  · rw [performAt_faulted _ hrst (s := { s with out := [] }) hs]
    exact .ignored (.inr (.inl ⟨hrst, hs⟩))
  · rcases decodeEvent_cases E with h | h | h | ⟨b, h⟩ | h <;> rw [h]
    · exact absurd h hrst
    · have heffect : linkDown { s with out := [] } = { s with
          connected := false, buf := [], count := 0, out := if s.connected then [.linkLost] else [] } := by
        rw [linkDown_eq_dropConnection]
        cases s.connected <;> rfl
      rw [performAt_linkdown_live _ { s with out := [] } hs, heffect]
      exact .linkdown hs
    · rw [performAt_linkup_live _ { s with out := [] } hs]
      exact .linkup hs
    · rw [performAt_rxbyte_live _ b { s with out := [] } hs]
      exact stepCase_rxByte b hs
    · exact .ignored (.inl rfl)

/-- A run's first step, and the rest of the run from where it ends. -/
theorem exists_step (E : EventWord) (s : State) : ∃ t, step (present E s) = .next t ∧
    ∀ evs, runEvents (E :: evs) s = ((runEvents evs t).1, t.out ++ (runEvents evs t).2) :=
  ⟨_, step_present E s, fun evs => runEvents_cons E evs s⟩

/-! ### The records of a run -/

@[simp] theorem framesIn_append (u v : List Out) : framesIn (u ++ v) = framesIn u ++ framesIn v :=
  List.filterMap_append

@[simp] theorem reportsIn_append (u v : List Out) : reportsIn (u ++ v) = reportsIn u ++ reportsIn v :=
  List.filterMap_append

@[simp] theorem discardedIn_append (u v : List Out) : discardedIn (u ++ v) = discardedIn u ++ discardedIn v :=
  List.filterMap_append

theorem mem_framesIn {f : List Byte} {out : List Out} : f ∈ framesIn out ↔ Out.frameDone f ∈ out := by
  rw [framesIn, List.mem_filterMap]
  constructor
  · rintro ⟨o, ho, hf⟩
    cases o <;> simp_all
  · exact fun h => ⟨_, h, rfl⟩

/-- What every step records from the states of an invariant, every run from one of them records. -/
theorem forall_mem_runEvents_out {I : State → Prop} {Q : Out → Prop}
    (hstep : ∀ (s t : State) (E : EventWord), I s → step (present E s) = .next t → I t ∧ ∀ o ∈ t.out, Q o)
    (evs : List EventWord) {s : State} (hs : I s) : ∀ o ∈ (runEvents evs s).2, Q o := by
  induction evs generalizing s with
  | nil => exact fun o ho => absurd ho List.not_mem_nil
  | cons E evs ih =>
    obtain ⟨t, ht, hrun⟩ := exists_step E s
    obtain ⟨hinv, hout⟩ := hstep s t E hs ht
    rw [hrun]
    exact fun o ho => (List.mem_append.1 ho).elim (hout o) (ih hinv o)

/-! ### Frames fed to the block -/

/-- Bytes that fill a started frame, and the ninth: nothing is output before the value is complete. -/
theorem feed_to_completion (bytes : List Byte) (b : Byte) {s : State} (hs : s.fault = false)
    (hc : s.connected = true) (h1 : 1 ≤ s.len) (h8 : s.len + bytes.length = 8) {v : List Byte}
    (hv : s.buf ++ (bytes ++ [b]) = v) :
    feed (bytes ++ [b]) s =
      (decodeFrame Config.countWidth v { s with buf := [], out := [.frameDone v] },
        (decodeFrame Config.countWidth v { s with buf := [], out := [.frameDone v] }).out) := by
  subst hv
  induction bytes generalizing s with
  | nil =>
    have hstep : rxByte Config.countWidth b { s with out := [] } =
        completeFrame Config.countWidth b { s with out := [] } := rxByte_complete _ hc h8.ge
    rw [List.nil_append, feed_cons_live b [] hs, hstep, completeFrame_eq, feed_nil, List.append_nil]
    rfl
  | cons a bytes ih =>
    rw [List.length_cons] at h8
    have h7 : s.len ≤ 7 := by omega
    have hstep : rxByte Config.countWidth a { s with out := [] } = { s with buf := s.buf ++ [a], out := [] } :=
      rxByte_append _ hc h1 h7
    have hlen : State.len { s with buf := s.buf ++ [a], out := [] } = s.len + 1 := List.length_append
    rw [List.cons_append, feed_cons_live a _ hs, hstep,
      ih (s := { s with buf := s.buf ++ [a], out := [] }) hs hc (by rw [hlen]; omega) (by rw [hlen]; omega)]
    simp only [List.nil_append, List.append_assoc, List.cons_append]

/-- A whole frame fed to an empty buffer reaches the checksum. -/
theorem feed_frame {f : Frame} (hstart : f.start = Config.startMarker) {s : State} (hs : s.fault = false)
    (hc : s.connected = true) (hbuf : s.buf = []) :
    feed (frameBytes f) s =
      (decodeChecked Config.countWidth f { s with out := [.frameDone (frameBytes f)] },
        (decodeChecked Config.countWidth f { s with out := [.frameDone (frameBytes f)] }).out) := by
  have hbegin : rxByte Config.countWidth f.start { s with out := [] } = { s with buf := [f.start], out := [] } :=
    rxByte_start _ hc ((isFrameStart_iff _ _).2 ⟨by simp [hbuf], hstart⟩)
  have hrest := feed_to_completion [f.cmd, f.d0, f.d1, f.d2, f.d3, f.d4, f.d5] f.cks
    (s := { s with buf := [f.start], out := [] }) hs hc le_rfl rfl (v := frameBytes f) rfl
  have hempty : { s with buf := [], out := [.frameDone (frameBytes f)] } =
      { s with out := [.frameDone (frameBytes f)] } := by rw [← hbuf]
  have hsplit : frameBytes f = f.start :: ([f.cmd, f.d0, f.d1, f.d2, f.d3, f.d4, f.d5] ++ [f.cks]) := rfl
  rw [← decodeFrame_of_start _ hstart, ← hempty]
  conv_lhs => rw [hsplit, feed_cons_live _ _ hs, hbegin, hrest]
  rfl

/-- The decoder on a valid `0x86` frame (R137). -/
theorem decodeFrame_of_validCo2 (W : CounterWidth) {bytes : List Byte} {m : Measurement} (h : validCo2 bytes = some m)
    (s : State) : decodeFrame W bytes s = stabilize W m s := by
  rcases decodeFrame_cases W bytes s with ⟨hv, -⟩ | ⟨_, _, hv, -⟩ | ⟨_, hv, -⟩ | ⟨m', hv, e⟩
  case inr.inr.inr => rw [e, Option.some.inj (hv.symm.trans h)]
  all_goals rw [hv] at h; cases h

/-- What a valid `0x86` frame is (R122, R137). -/
theorem validCo2_eq_some {bytes : List Byte} {m : Measurement} (h : validCo2 bytes = some m) :
    ∃ f, frameBytes f = bytes ∧ f.start = Config.startMarker ∧ m = measurementOf f := by
  unfold validCo2 at h
  split at h
  · cases h
  case h_2 f hf =>
    split at h
    case isTrue hvalid =>
      obtain ⟨hstart, -, -⟩ := hvalid
      exact ⟨f, frameOfBytes?_eq_some hf, hstart, (Option.some.inj h).symm⟩
    case isFalse => cases h

/-! ### The case an operation or a flag decides alone -/

theorem StepCase.eq_of_linkdown {s t : State} (h : StepCase s .linkdown t) (hs : s.fault = false) :
    t = { s with connected := false, buf := [], count := 0, out := if s.connected then [.linkLost] else [] } := by
  cases h with
  | ignored hignored => simp [hs] at hignored
  | linkdown => rfl

theorem StepCase.eq_of_linkup {s t : State} (h : StepCase s .linkup t) (hs : s.fault = false) :
    t = { s with connected := true, buf := [], count := 0, out := [.linkUp] } := by
  cases h with
  | ignored hignored => simp [hs] at hignored
  | linkup => rfl

theorem StepCase.eq_of_faulted {s t : State} {i : Instr} (h : StepCase s i t) (hi : i ≠ .rst) (hs : s.fault = true) :
    t = { s with out := [] } := by
  cases h with
  | ignored => rfl
  | rst => exact absurd rfl hi
  | linkdown hlive | linkup hlive | start hlive | discard hlive | append hlive => simp [hs] at hlive
  | badShape hcomplete | mismatch hcomplete | unknown hcomplete | unreported hcomplete | reported hcomplete =>
    exact absurd hcomplete.live (by simp [hs])

theorem StepCase.eq_of_disconnected {s t : State} {b : Byte} (h : StepCase s (.rxbyte b) t)
    (hc : s.connected = false) : t = { s with out := [] } := by
  cases h with
  | ignored => rfl
  | start _ hconn | discard _ hconn | append _ hconn => simp [hc] at hconn
  | badShape hcomplete | mismatch hcomplete | unknown hcomplete | unreported hcomplete | reported hcomplete =>
    exact absurd hcomplete.connected (by simp [hc])

/-! ### The frame position (R26) -/

/-- The frame position never passes 8. -/
theorem StepCase.len_le {s t : State} {i : Instr} (h : StepCase s i t) (h8 : s.len ≤ 8) : t.len ≤ 8 := by
  cases h with
  | ignored | discard => exact h8
  | append _ _ _ h7 =>
    rw [State.len, List.length_append]
    exact Nat.succ_le_succ h7
  | rst | linkdown | linkup | start | badShape | mismatch | unknown | unreported | reported => simp [State.len]

section LiveByte

variable {s t : State} {b : Byte} (h : StepCase s (.rxbyte b) t) (hs : s.fault = false) (hc : s.connected = true)

include h hs hc

theorem StepCase.len_of_empty (h0 : s.len = 0) : t.len = if b = 0xFF#8 then 1 else 0 := by
  cases h with
  | ignored hignored => simp [hs, hc] at hignored
  | start => rfl
  | discard _ _ _ hb => rw [if_neg hb]; exact h0
  | append _ _ h1 => omega
  | badShape hcomplete | mismatch hcomplete | unknown hcomplete | unreported hcomplete | reported hcomplete =>
    have := hcomplete.len
    omega

theorem StepCase.len_of_inside (h1 : 1 ≤ s.len) (h7 : s.len ≤ 7) : t.len = s.len + 1 := by
  cases h with
  | ignored hignored => simp [hs, hc] at hignored
  | start _ _ hbuf | discard _ _ hbuf => simp [State.len, hbuf] at h1
  | append => exact List.length_append
  | badShape hcomplete | mismatch hcomplete | unknown hcomplete | unreported hcomplete | reported hcomplete =>
    have := hcomplete.len
    omega

/-- A completed value leaves the buffer empty, whatever the decoder makes of it (R104). -/
theorem StepCase.len_of_complete (h8 : s.len = 8) : t.len = 0 := by
  cases h with
  | ignored hignored => simp [hs, hc] at hignored
  | start _ _ hbuf | discard _ _ hbuf => simp [State.len, hbuf] at h8
  | append _ _ _ h7 => omega
  | badShape | mismatch | unknown | unreported | reported => rfl

end LiveByte

/-- Settles O24: each row is a case of the step. -/
theorem framePositionAdvancesAsStated : Obligations.FramePositionAdvancesAsStated := by
  intro s t E h8 hstep
  have hcase := stepCase_of_step hstep
  refine ⟨hcase.len_le h8, fun hE => ?rst, fun hE hs => ?faulted, fun hE hs => ?linkdown, fun hE hs => ?linkup,
    fun hE => ?nop, fun b hE => ?rxbyte⟩
  case faulted => rw [hcase.eq_of_faulted hE hs]
  all_goals rw [hE] at hcase
  case rst =>
    cases hcase with
    | ignored h => simp at h
    | rst => rfl
  case linkdown => simp [State.len, hcase.eq_of_linkdown hs]
  case linkup => simp [State.len, hcase.eq_of_linkup hs]
  case nop =>
    cases hcase
    rfl
  case rxbyte =>
    refine ⟨fun hc => ?disconnected, fun hc hs => ⟨hcase.len_of_empty hs hc, hcase.len_of_inside hs hc,
      hcase.len_of_complete hs hc⟩⟩
    case disconnected => rw [hcase.eq_of_disconnected hc]

end Sys2Proof.Machine

/-! ## Frames of a run (R56, R86, R108 to R110, R125, R235) -/

namespace Sys2Proof.Machine

/-! ### Every byte is accounted for (R108) -/

/-- What a live connection keeps between bytes: it stays live, with a buffer in order. -/
structure OrderedConnection (s : State) : Prop where
  connected : s.connected = true
  live : s.fault = false
  ordered : Memory.wf s.buf = true

theorem OrderedConnection.len_le {s : State} (h : OrderedConnection s) : s.len ≤ 8 :=
  ((Memory.wf_iff s.buf).1 h.ordered).1

/-- A value completed from a buffer in order has nine bytes and begins with the start marker. -/
theorem Completing.shape {s : State} {b : Byte} {v : List Byte} (h : Completing s b v)
    (hwf : Memory.wf s.buf = true) : v.length = 9 ∧ v.head? = some Config.startMarker := by
  obtain ⟨hlen, hform⟩ := (Memory.wf_iff s.buf).1 hwf
  have h8 : s.buf.length = 8 := Nat.le_antisymm hlen h.len
  have hhead : s.buf.head? = some Config.startMarker := hform.resolve_left fun hbuf => by simp [hbuf] at h8
  rw [h.value_eq]
  exact ⟨by simp [h8], by simp [List.head?_append, hhead]⟩

theorem OrderedConnection.step {s t : State} {b : Byte} (hs : OrderedConnection s)
    (h : StepCase s (.rxbyte b) t) : OrderedConnection t := by
  obtain ⟨hc, hlive, hwf⟩ := hs
  cases h with
  | ignored | discard => exact ⟨hc, hlive, hwf⟩
  | start => exact ⟨hc, hlive, rfl⟩
  | append _ _ h1 h7 => exact ⟨hc, hlive, Memory.wf_append b hwf h1 h7⟩
  | badShape hcomplete _ hshape =>
    obtain ⟨h9, hhead⟩ := hcomplete.shape hwf
    exact absurd hshape (not_or.2 ⟨not_not.2 h9, not_not.2 hhead⟩)
  | mismatch | unknown | unreported | reported => exact ⟨hc, hlive, rfl⟩

/-- One byte more is pending, or discarded, or the ninth of a frame. -/
theorem OrderedConnection.accounts {s t : State} {b : Byte} (hs : OrderedConnection s)
    (h : StepCase s (.rxbyte b) t) :
    s.len + 1 = (discardedIn t.out).length + 9 * (framesIn t.out).length + t.len := by
  have h8 := hs.len_le
  cases h with
  | ignored hignored => simp [hs.connected, hs.live] at hignored
  | start _ _ hbuf | discard _ _ hbuf => simp [State.len, hbuf, discardedIn, framesIn]
  | append => simp [State.len, discardedIn, framesIn]
  | badShape hcomplete | mismatch hcomplete | unknown hcomplete | unreported hcomplete | reported hcomplete =>
    rw [Nat.le_antisymm h8 hcomplete.len]
    rfl

/-- Settles O25: by induction on the bytes, adding up what each is. -/
theorem everyByteIsAccountedFor : Obligations.EveryByteIsAccountedFor := by
  intro s bytes hc hs hwf
  have hordered : OrderedConnection s := ⟨hc, hs, hwf⟩
  clear hc hs hwf
  induction bytes generalizing s with
  | nil => simp [discardedIn, framesIn]
  | cons b bytes ih =>
    obtain ⟨t, hstep, hrun⟩ := exists_step (evRx b) s
    have hcase := stepCase_of_step hstep
    rw [decodeEvent_evRx] at hcase
    have hfeed : feed (b :: bytes) s = ((feed bytes t).1, t.out ++ (feed bytes t).2) := hrun (stimRxs bytes)
    have hfirst := hordered.accounts hcase
    have hrest := ih t (hordered.step hcase)
    simp only [hfeed, discardedIn_append, framesIn_append, List.length_append, List.length_cons]
    omega

/-! ### Every frame is well shaped (R109) -/

/-- A record of a block in order: a frame of nine bytes that begins with the start marker, or no frame and no fault. -/
def WellShapedRecord : Out → Prop
  | .frameDone v => v.length = 9 ∧ v.head? = some Config.startMarker
  | .fault _ => False
  | _ => True

theorem StepCase.wellShaped {s t : State} {i : Instr} (h : StepCase s i t) (hwf : Memory.wf s.buf = true) :
    ∀ o ∈ t.out, WellShapedRecord o := by
  cases h with
  | ignored | rst | linkup | start | discard | append => simp [WellShapedRecord]
  | linkdown =>
    intro o ho
    split at ho <;> simp_all [WellShapedRecord]
  | badShape hcomplete _ hshape =>
    obtain ⟨h9, hhead⟩ := hcomplete.shape hwf
    exact absurd hshape (not_or.2 ⟨not_not.2 h9, not_not.2 hhead⟩)
  | mismatch hcomplete | unknown hcomplete | unreported hcomplete | reported hcomplete =>
    simp [WellShapedRecord, hcomplete.shape hwf]

/-- Settles O27: the invariant gives each completed value its shape, so the check of R135 never fails. -/
theorem emittedFramesAreWellShaped : Obligations.EmittedFramesAreWellShaped := by
  intro s evs hinv
  have hrecords : ∀ o ∈ (runEvents evs s).2, WellShapedRecord o :=
    forall_mem_runEvents_out (I := BlockInv) (fun s t E hs hstep =>
      ⟨stepKeepsInvariant (present E s) t hs hstep, (stepCase_of_step hstep).wellShaped hs.left⟩) evs hinv
  obtain ⟨-, -, -, hfault⟩ := blockInv_runEvents evs hinv
  exact ⟨fun f hf => hrecords _ (mem_framesIn.1 hf), hfault, fun code hcode => hrecords _ hcode⟩

/-! ### Whole frames fed to the block (R110, R125, R235) -/

/-- Settles O28: the noise leaves the block as it was, the frame reaches the stabilizer. -/
theorem noiseThenFrameResynchronises : Obligations.NoiseThenFrameResynchronises := by
  intro s noise f m hc hs hbuf hnoise hvalid
  obtain ⟨⟨hc', hbuf', hcount', hs'⟩, hout⟩ := feed_stray hnoise hs hc hbuf
  obtain ⟨g, hg, hstart, -⟩ := validCo2_eq_some hvalid
  have hgf : g = f := Option.some.inj (congrArg frameOfBytes? hg)
  subst hgf
  have hfeed := feed_frame hstart (hs'.trans hs) (hc'.trans hc) (hbuf'.trans hbuf)
  rw [← decodeFrame_of_start _ hstart, decodeFrame_of_validCo2 _ hvalid, stabilize_eq] at hfeed
  have hreport : Config.warmupThreshold ≤ bumpCount Config.countWidth s.count ↔ 19 ≤ s.count := by
    show 20 ≤ min (s.count + 1) 255 ↔ _
    omega
  rw [feed_append, hfeed, hout]
  simp only [hcount', hreport]
  exact ⟨by simp only [List.append_assoc]; rfl, hbuf'.trans hbuf, rfl⟩

/-- Settles O34: the checksum does not depend on the byte it is compared with, and an off-by-one is a mismatch. -/
theorem exactlyOneChecksumByteIsValid : Obligations.ExactlyOneChecksumByteIsValid := by
  refine ⟨fun f => ⟨checksum f, fun x => ?oneByte⟩, fun s f d hc hs hbuf hstart hvalid hd => ?offByOne⟩
  case oneByte =>
    rw [validate_eq_valid_iff, checksum_with_cks]
    exact eq_comm
  case offByOne =>
    have hsum : checksum { f with cks := f.cks + d } = f.cks :=
      (checksum_with_cks f _).trans ((validate_eq_valid_iff f).1 hvalid)
    have hne : f.cks ≠ f.cks + d := by
      rw [ne_eq, left_eq_add]
      rcases hd with rfl | rfl <;> decide
    rw [feed_frame (f := { f with cks := f.cks + d }) hstart hs hc hbuf,
      decodeChecked_of_checksum_ne _ _ (by rw [hsum]; exact hne), hsum]
    exact ⟨rfl, rfl, rfl, rfl, rfl⟩

/-- The nine bytes the misaligned block takes for a frame: the checksum byte before a frame, and the frame but for its
own. -/
def misalignedWindow (f : Frame) : Frame := ⟨0xFF#8, f.start, f.cmd, f.d0, f.d1, f.d2, f.d3, f.d4, f.d5⟩

/-- The window holds the bytes the sender's checksum covers, so it is valid when the sender's frame is. -/
theorem checksum_misalignedWindow {f : Frame} (hstart : f.start = 0xFF#8) (hcks : f.cks = 0xFF#8)
    (hvalid : validate f = .valid f) : checksum (misalignedWindow f) = (misalignedWindow f).cks := by
  rw [validate_eq_valid_iff, checksum_eq_cks_iff, checksumValid_iff_sum] at hvalid
  rw [checksum_eq_cks_iff, checksumValid_iff_sum, ← hvalid]
  simp only [misalignedWindow, frameBytes, hstart, hcks, List.tail_cons, List.sum_cons, List.sum_nil]
  abel

theorem feed_startMarker {s : State} (hs : s.fault = false) (hc : s.connected = true) (hbuf : s.buf = []) :
    feed [Config.startMarker] s = ({ s with buf := [Config.startMarker], out := [] }, []) := by
  have hbegin : rxByte Config.countWidth Config.startMarker { s with out := [] } =
      { s with buf := [Config.startMarker], out := [] } :=
    rxByte_start _ hc ((isFrameStart_iff _ _).2 ⟨by simp [hbuf], rfl⟩)
  rw [feed_cons_live _ _ hs, hbegin, feed_nil]
  rfl

/-- One repeat of the misaligned sender: the window is a valid frame of command `0xFF`, and the checksum byte after it
starts the next window (R235). -/
theorem feed_misaligned {s : State} {f : Frame} (hc : s.connected = true) (hs : s.fault = false)
    (hbuf : s.buf = [0xFF#8]) (hstart : f.start = 0xFF#8) (hcks : f.cks = 0xFF#8) (hvalid : validate f = .valid f) :
    sameBlock (feed (frameBytes f) s).1 s ∧
      (feed (frameBytes f) s).2 = [.frameDone (0xFF#8 :: (frameBytes f).take 8), .ignored 0xFF#8] := by
  have hcmd : (misalignedWindow f).cmd ≠ Config.cmdReadCo2 := fun h => by
    have hstart' : f.start = Config.cmdReadCo2 := h
    exact absurd (hstart.symm.trans hstart') (by decide)
  have hwindow := feed_to_completion [f.start, f.cmd, f.d0, f.d1, f.d2, f.d3, f.d4] f.d5 hs hc
    (by simp [State.len, hbuf]) (by simp [State.len, hbuf]) (v := frameBytes (misalignedWindow f)) (by rw [hbuf]; rfl)
  rw [decodeFrame_of_start _ rfl, decodeChecked_of_cmd_ne _ _ (checksum_misalignedWindow hstart hcks hvalid) hcmd]
    at hwindow
  have hsplit : frameBytes f = ([f.start, f.cmd, f.d0, f.d1, f.d2, f.d3, f.d4] ++ [f.d5]) ++ [f.cks] := rfl
  have hfeed : feed (frameBytes f) s = ({ s with buf := [0xFF#8], out := [] },
      [.frameDone (frameBytes (misalignedWindow f)), .ignored f.start]) := by
    have hnext := feed_startMarker (s := emit (.ignored (misalignedWindow f).cmd)
      { s with buf := [], out := [.frameDone (frameBytes (misalignedWindow f))] }) hs hc rfl
    simp only [hsplit, feed_append, hwindow, hcks, hnext]
    rfl
  rw [hfeed]
  exact ⟨⟨rfl, hbuf.symm, rfl, rfl⟩, by rw [hstart]; rfl⟩

/-- Records on the trace channel only are nothing on the others. -/
theorem extDiag_of_trace {out : List Out} (h : ∀ o ∈ out, channelOf o = .trace) : extDiag out = [] :=
  List.filter_eq_nil_iff.2 fun o ho => by simp [h o ho]

/-- Settles O29: each repeat leaves the block where it was, so the number of repeats does not matter. -/
theorem silentMisalignmentPersists : Obligations.SilentMisalignmentPersists := by
  intro s f n hc hs hbuf hstart hcks hvalid
  suffices hrun : sameBlock (runEvents (stimRep n (stimRxs (frameBytes f))) s).1 s ∧
      (runEvents (stimRep n (stimRxs (frameBytes f))) s).2 =
        (List.replicate n [Out.frameDone (0xFF#8 :: (frameBytes f).take 8), Out.ignored 0xFF#8]).flatten by
    obtain ⟨hsame, hout⟩ := hrun
    refine ⟨hsame, hout, ?_⟩
    rw [hout]
    refine extDiag_of_trace fun o ho => ?_
    obtain ⟨l, hl, ho⟩ := List.mem_flatten.1 ho
    rw [List.eq_of_mem_replicate hl, List.mem_pair] at ho
    rcases ho with rfl | rfl <;> rfl
  induction n generalizing s with
  | zero => exact ⟨sameBlock_refl s, rfl⟩
  | succ n ih =>
    have hrep : stimRep (n + 1) (stimRxs (frameBytes f)) =
        stimRxs (frameBytes f) ++ stimRep n (stimRxs (frameBytes f)) := by
      rw [stimRep, List.replicate_succ, List.flatten_cons, stimRep]
    obtain ⟨hone, hone_out⟩ := feed_misaligned hc hs hbuf hstart hcks hvalid
    rw [feed] at hone hone_out
    obtain ⟨hc', hbuf', -, hs'⟩ := id hone
    obtain ⟨hrest, hrest_out⟩ := ih _ (hc'.trans hc) (hs'.trans hs) (hbuf'.trans hbuf)
    rw [hrep, runEvents_append, hone_out, hrest_out, List.replicate_succ, List.flatten_cons]
    exact ⟨sameBlock_trans hrest hone, rfl⟩

/-! ### The store and the load of the buffer (R56) -/

/-- A byte that starts a frame or is appended goes to the end of the buffer. -/
theorem rxByte_buf_of_room {s : State} {b : Byte} (hc : s.connected = true) (h7 : s.len ≤ 7)
    (hstart : s.len = 0 → b = Config.startMarker) :
    (rxByte Config.countWidth b s).buf = Memory.append s.buf b := by
  by_cases h0 : s.len = 0
  · rw [rxByte_start _ hc ((isFrameStart_iff _ _).2 ⟨h0, hstart h0⟩), List.length_eq_zero_iff.1 h0]
    rfl
  · rw [rxByte_append _ hc (Nat.pos_of_ne_zero h0) h7]
    rfl

/-- Settles O22: the store goes to the end of the buffer, and the load at completion is the recorded frame. -/
theorem appendWritesOneCell : Obligations.AppendWritesOneCell := by
  refine ⟨fun s t b hs hc h7 hstart hexec => ?store, fun s t b hs hc h8 hexec => ?load⟩
  all_goals
    rw [exec_rxbyte_live b hs] at hexec
    obtain rfl := Host.Outcome.next.inj hexec
  case store =>
    simp only [State.len, rxByte_buf_of_room hc h7 hstart]
    exact ⟨Memory.readByte_append_self s.buf b, fun _ => Memory.readByte_append_ne s.buf b, List.length_append⟩
  case load =>
    rw [rxByte_complete _ hc h8.ge]
    exact ⟨completeFrame_buf _ b s, s.buf ++ [b], Memory.read_frame b h8,
      mem_decodeFrame_out _ _ (by simp [Memory.append])⟩

/-! ### The frame classes run on their own (R80, R86, R123, R152) -/

/-- An operation whose code is a frame hands that frame to the decoder (log entry 9). -/
theorem exec_of_encode_frame {i : Instr} {bytes : List Byte} (h : encode i = .frame bytes) (s : State) :
    exec i s = .next (whenLive (decodeFrame Config.countWidth bytes) s) := by
  rw [exec_eq_next]
  cases i with
  | rst | linkdown | linkup | rxbyte | nop => cases h
  | readCo2 | unknownCmd | pollReadCo2 =>
    obtain rfl := Code.frame.inj h
    rfl

/-- Settles O42: the nine bytes have a class, and the class's code is these bytes. -/
theorem completingByteRunsItsFrameClass : Obligations.CompletingByteRunsItsFrameClass := by
  intro s b hs hc h8 hhead
  obtain ⟨f, hf⟩ := exists_frame_of_length (bytes := s.buf ++ [b]) (by simp [h8])
  have hstart : f.start = Config.startMarker := by
    have hhead' : (frameBytes f).head? = some Config.startMarker := by rw [hf, List.head?_append, hhead]; rfl
    exact Option.some.inj hhead'
  obtain ⟨i, hwf, hclass, hencode⟩ := exists_classifyFrame hstart
  refine ⟨i, hwf, by rw [← hf, decode_frameBytes, hclass], ?_⟩
  rw [exec_rxbyte_complete b hs hc h8, exec_of_encode_frame hencode, hf, whenLive_live]
  exact hs

theorem decodeTableWord_eq_some {nbits w : Nat} {i : Instr} (h : decodeTableWord nbits w = some i) :
    ∃ c, codeOfTableWord nbits w = some c ∧ decode c = .ok i := by
  unfold decodeTableWord at h
  cases hc : codeOfTableWord nbits w with
  | none => simp [hc] at h
  | some c =>
    refine ⟨c, rfl, ?_⟩
    cases hd : decode c <;> simp_all [Except.toOption]

/-- The two kinds of table word, by their size. -/
theorem codeOfTableWord_eq_some {nbits w : Nat} {c : Code} (h : codeOfTableWord nbits w = some c) :
    (nbits ≤ 16 ∧ ∃ E, c = .event E) ∨ (nbits = 72 ∧ c = .frame (bytesOfFrameWord (BitVec.ofNat 72 w))) := by
  unfold codeOfTableWord at h
  split_ifs at h with h16 _ h72
  · exact .inl ⟨by omega, _, (Option.some.inj h).symm⟩
  · exact .inr ⟨h72, (Option.some.inj h).symm⟩

/-- A placed frame is completed by its last byte, so the next step runs its class. -/
theorem step_presentFrame {f : Frame} {i : Instr} {s : State} (hs : s.fault = false)
    (hclass : classifyFrame f = .ok i) :
    step (presentFrame (frameBytes f) s) =
      exec i { s with connected := true, buf := [], out := [.frameDone (frameBytes f)] } := by
  have hstart : f.start = Config.startMarker := by
    by_contra h
    rw [classifyFrame_of_no_start h] at hclass
    cases hclass
  obtain ⟨j, -, hj, hexec⟩ := completingByteRunsItsFrameClass
    { s with connected := true, buf := (frameBytes f).dropLast, out := [] } f.cks hs rfl rfl (congrArg some hstart)
  obtain rfl : i = j := Except.ok.inj (hclass.symm.trans hj)
  have hplaced : presentFrame (frameBytes f) s =
      present (evRx f.cks) { s with connected := true, buf := (frameBytes f).dropLast } := rfl
  rw [hplaced, step_present_eq_exec, decodeEvent_evRx]
  exact hexec

/-- Settles O8: an event word is taken as it stands, and a frame's last byte completes the frame. -/
theorem placedWordIsWhatTheNextStepRuns : Obligations.PlacedWordIsWhatTheNextStepRuns := by
  intro s nbits w i hs hdecode
  obtain ⟨c, hcode, hc⟩ := decodeTableWord_eq_some hdecode
  rw [State.withFetchWord, placeTableWord, hcode]
  obtain ⟨h16, E, rfl⟩ | ⟨h72, rfl⟩ := codeOfTableWord_eq_some hcode
  · refine ⟨fun _ => ?_, fun h72 => absurd h72 (by omega)⟩
    rw [← Except.ok.inj hc]
    exact step_present_eq_exec E s
  · refine ⟨fun h16 => absurd h16 (by omega), fun _ => ?_⟩
    rw [← frameBytes_frameOfWord] at hc ⊢
    exact step_presentFrame hs hc

/-- Settles O40: the literal is a frame with a right checksum and command `0x01`. -/
theorem receivedPollRequestIsIgnored : Obligations.ReceivedPollRequestIsIgnored := by
  refine ⟨fun s hs => ?effect, fun _ => rfl, rfl⟩
  case effect =>
    exact unknownCommandIsIgnored s 0x01#8 0x86#8 0x00#8 0x00#8 0x00#8 0x00#8 0x00#8 0x79#8 hs (by decide) rfl

/-- Settles O41: a wrong checksum decides before the command is looked at. -/
theorem frameClassWithBadChecksumOnlyLogs : Obligations.FrameClassWithBadChecksumOnlyLogs := by
  refine ⟨fun s hi lo tt rh rl r8 k e hs he hne => ?readCo2, fun s cmd d0 d1 d2 d3 d4 d5 k e hs he hne => ?unknownCmd⟩
  all_goals subst he
  case readCo2 => rw [exec_readCo2_live hi lo tt rh rl r8 k hs, decodeChecked_of_checksum_ne _ s hne, emit]
  case unknownCmd => rw [exec_unknownCmd_live cmd d0 d1 d2 d3 d4 d5 k hs, decodeChecked_of_checksum_ne _ s hne, emit]

/-- Settles O48: the new count reaches the threshold exactly when the old one was 19 or more. -/
theorem twentiethFrameIsFirstReported : Obligations.TwentiethFrameIsFirstReported := by
  intro s hi lo tt rh rl r8 k hs hout hsum
  obtain ⟨heffect, -⟩ := readCo2DecodesCountsAndGates s hi lo tt rh rl r8 k hs hsum _ _ _ rfl rfl rfl
  refine ⟨_, heffect, fun hcount => ?reported, fun hcount => ?unreported⟩
  case reported =>
    rw [hout, if_pos (by omega)]
    rfl
  case unreported =>
    rw [hout, if_neg (by omega)]
    rfl

end Sys2Proof.Machine

/-! ## The count, the reports and the modes (R150 to R157, R203) -/

namespace Sys2Proof.Machine

/-! ### What a step counts and reports -/

/-- The measurements of the valid `0x86` frames completed, in order. -/
abbrev measurementsIn (out : List Out) : List Measurement := (framesIn out).filterMap validCo2

theorem measurementsIn_append (u v : List Out) : measurementsIn (u ++ v) = measurementsIn u ++ measurementsIn v := by
  rw [measurementsIn, framesIn_append, List.filterMap_append]

/-- The step completed a valid `0x86` frame of measurement `m`: what it does to the connection, and what it reports. -/
structure Measured (s : State) (i : Instr) (m : Measurement) (t : State) : Prop where
  byte : ∃ b, i = .rxbyte b ∧ Completing s b (s.buf ++ [b]) ∧ validCo2 (s.buf ++ [b]) = some m
  connected : t.connected = true
  live : t.fault = false
  count : t.count = min (s.count + 1) 255
  measurements : measurementsIn t.out = [m]
  reports : reportsIn t.out = if 19 ≤ s.count then [m] else []

/-- The step completed no valid `0x86` frame: it reports nothing, and a byte or an idle step leaves the count alone. -/
structure Unmeasured (s : State) (i : Instr) (t : State) : Prop where
  measurements : measurementsIn t.out = []
  reports : reportsIn t.out = []
  keeps : (∃ b, i = .rxbyte b) ∨ i = .nop → t.connected = s.connected ∧ t.count = s.count

/-- R150 and R153: a step counts exactly a valid `0x86` frame. -/
theorem StepCase.measured_or_unmeasured {s t : State} {i : Instr} (h : StepCase s i t) :
    (∃ m, Measured s i m t) ∨ Unmeasured s i t := by
  cases h with
  | ignored | start | discard | append => exact .inr ⟨rfl, rfl, fun _ => ⟨rfl, rfl⟩⟩
  | rst | linkup => exact .inr ⟨rfl, rfl, by simp⟩
  | linkdown =>
    refine .inr ⟨?_, ?_, by simp⟩
    all_goals dsimp only; split <;> rfl
  | badShape _ hv | mismatch _ hv | unknown _ hv => exact .inr ⟨by simp [framesIn, hv], rfl, fun _ => ⟨rfl, rfl⟩⟩
  | unreported hcomplete hv hcount =>
    have hcount' : s.count + 1 = min (s.count + 1) 255 := (Nat.min_eq_left (by omega)).symm
    obtain ⟨hs, hc, -, rfl⟩ := id hcomplete
    exact .inl ⟨_, ⟨_, rfl, hcomplete, hv⟩, hc, hs, hcount', List.filterMap_cons_some hv,
      (if_neg (Nat.not_le.2 hcount)).symm⟩
  | reported hcomplete hv hcount =>
    obtain ⟨hs, hc, -, rfl⟩ := id hcomplete
    exact .inl ⟨_, ⟨_, rfl, hcomplete, hv⟩, hc, hs, rfl, List.filterMap_cons_some hv, (if_pos hcount).symm⟩

theorem keepsConnection_iff (E : EventWord) :
    keepsConnection E = true ↔ (∃ b, decodeEvent E = .rxbyte b) ∨ decodeEvent E = .nop := by
  unfold keepsConnection
  rcases decodeEvent_cases E with h | h | h | ⟨b, h⟩ | h <;> simp [h]

/-- A step that keeps the connection: what it counts and reports, by the valid `0x86` frame it completes or none. -/
theorem step_counts {s t : State} {E : EventWord} (hE : keepsConnection E = true)
    (hstep : step (present E s) = .next t) :
    (∃ m, measurementsIn t.out = [m] ∧ t.count = min (s.count + 1) 255 ∧
        reportsIn t.out = if 19 ≤ s.count then [m] else []) ∨
      (measurementsIn t.out = [] ∧ t.count = s.count ∧ reportsIn t.out = []) := by
  obtain ⟨m, h⟩ | h := (stepCase_of_step hstep).measured_or_unmeasured
  · exact .inl ⟨m, h.measurements, h.count, h.reports⟩
  · obtain ⟨-, hcount⟩ := h.keeps ((keepsConnection_iff E).1 hE)
    exact .inr ⟨h.measurements, hcount, h.reports⟩

/-- R157 from any count: the reports of a run within a connection are its measurements but for those the warm-up still
takes. -/
theorem reportsIn_runEvents {evs : List EventWord} (hevs : ∀ E ∈ evs, keepsConnection E = true) (s : State) :
    reportsIn (runEvents evs s).2 = (measurementsIn (runEvents evs s).2).drop (19 - s.count) := by
  induction evs generalizing s with
  | nil => exact (List.drop_nil).symm
  | cons E evs ih =>
    obtain ⟨hE, hrest⟩ := List.forall_mem_cons.1 hevs
    obtain ⟨t, hstep, hrun⟩ := exists_step E s
    rw [hrun]
    simp only [reportsIn_append, measurementsIn_append, ih hrest t]
    obtain ⟨m, hm, hcount, hreports⟩ | ⟨hm, hcount, hreports⟩ := step_counts hE hstep <;> rw [hm, hreports]
    · by_cases h19 : 19 ≤ s.count
      · have hdone : 19 - t.count = 0 := by omega
        rw [if_pos h19, hdone, Nat.sub_eq_zero_of_le h19]
        rfl
      · have hleft : 19 - s.count = (19 - t.count) + 1 := by omega
        rw [if_neg h19, hleft]
        rfl
    · rw [hcount]
      rfl

/-! ### The modes (R32, R202) -/

theorem modeOf_connected {s : State} (hs : s.fault = false) (hc : s.connected = true) :
    modeOf s = if s.count < 20 then .ready else .reporting := by
  simp [modeOf, hs, hc]

/-! ### The statements -/

/-- Settles O44: from `count = 0` the warm-up takes the first 19 measurements. -/
theorem reportsAreValidFramesFromTheTwentieth : Obligations.ReportsAreValidFramesFromTheTwentieth := by
  intro s evs _ _ hcount _ hevs
  have hreports := reportsIn_runEvents hevs s
  rw [hcount] at hreports
  exact ⟨hreports, by rw [hreports, List.length_drop]⟩

/-- Settles O46: both rows are the cases of what a step counts. -/
theorem onlyValidCo2FramesCount : Obligations.OnlyValidCo2FramesCount := by
  intro s t E hE hstep
  obtain ⟨m, hm, hcount, -⟩ | ⟨hm, hcount, -⟩ := step_counts hE hstep
  · exact ⟨fun hnone => absurd (hm.symm.trans hnone) (List.cons_ne_nil m []), fun _ => hcount⟩
  · exact ⟨fun _ => hcount, fun hsome => absurd hm hsome⟩

/-- Settles O47: by induction on the events, each of which leaves the count or saturates it. -/
theorem countNeverFallsWithinConnection : Obligations.CountNeverFallsWithinConnection := by
  intro s evs h255 hevs
  induction evs generalizing s with
  | nil => exact ⟨le_rfl, h255⟩
  | cons E evs ih =>
    obtain ⟨hE, hrest⟩ := List.forall_mem_cons.1 hevs
    obtain ⟨t, hstep, hrun⟩ := exists_step E s
    have hcount : s.count ≤ t.count ∧ t.count ≤ 255 := by
      obtain ⟨_, -, hcount, -⟩ | ⟨-, hcount, -⟩ := step_counts hE hstep <;> omega
    obtain ⟨hstepLe, hstepMax⟩ := hcount
    obtain ⟨hle, hmax⟩ := ih t hstepMax hrest
    rw [hrun]
    exact ⟨hstepLe.trans hle, hmax⟩

/-- A disconnected block ignores bytes and idle steps. -/
theorem runEvents_disconnected {evs : List EventWord} (hevs : ∀ E ∈ evs, keepsConnection E = true) {s : State}
    (hc : s.connected = false) : sameBlock (runEvents evs s).1 s ∧ (runEvents evs s).2 = [] := by
  refine runEvents_silent fun E hE t ⟨hc', _⟩ => ?_
  have hstep := stepCase_of_step (step_present E t)
  obtain ⟨b, hb⟩ | hnop := (keepsConnection_iff E).1 (hevs E hE)
  · rw [hb] at hstep ⊢
    exact hstep.eq_of_disconnected (hc'.trans hc)
  · rw [hnop]
    rfl

/-- Settles O49: the link loss ends every record of the first connection, and the new one counts from 0. -/
theorem reconnectionRestartsWarmUp : Obligations.ReconnectionRestartsWarmUp := by
  intro s D U between evs hs hD hU hbetween hevs
  obtain ⟨down, hdown, hrunDown⟩ := exists_step D s
  have hdownCase := stepCase_of_step hdown
  rw [hD] at hdownCase
  have hdownState := hdownCase.eq_of_linkdown hs
  have hc : down.connected = false := by rw [hdownState]
  have hfault : down.fault = false := by rw [hdownState, hs]
  have hdownRecords : reportsIn down.out = [] ∧ measurementsIn down.out = [] := by
    rw [hdownState]
    cases s.connected <;> exact ⟨rfl, rfl⟩
  obtain ⟨hdownReports, hdownMeasurements⟩ := hdownRecords
  obtain ⟨⟨-, -, -, hidle⟩, hidleOut⟩ := runEvents_disconnected hbetween hc
  obtain ⟨up, hup, hrunUp⟩ := exists_step U (runEvents between down).1
  have hupCase := stepCase_of_step hup
  rw [hU] at hupCase
  have hupState := hupCase.eq_of_linkup (hidle.trans hfault)
  have hcount : up.count = 0 := by rw [hupState]
  have hupOut : up.out = [.linkUp] := by rw [hupState]
  have hreports := reportsIn_runEvents hevs up
  rw [hcount] at hreports
  show _ = (measurementsIn _).drop 19
  rw [List.cons_append, hrunDown, runEvents_append, hidleOut, hrunUp, hupOut]
  simp only [List.nil_append, reportsIn_append, measurementsIn_append, hdownReports, hdownMeasurements]
  exact hreports

/-- Settles O50: the modes are told apart by the count, which moves exactly on a valid frame. -/
theorem connectionStateMachine : Obligations.ConnectionStateMachine := by
  intro s t E hinv hstep
  have hcase := stepCase_of_step hstep
  obtain ⟨-, -, -, ht⟩ := stepKeepsInvariant (present E s) t hinv hstep
  obtain ⟨-, -, -, hs⟩ := hinv
  refine ⟨fun hc hE hnone => ?noFrame, fun m _ hframe => ?frame, ?atMostOne, fun hE => ?linkdown, fun hE => ?linkup⟩
  case noFrame =>
    obtain ⟨m, h⟩ | h := hcase.measured_or_unmeasured
    · exact absurd (h.measurements.symm.trans hnone) (List.cons_ne_nil m [])
    · obtain ⟨hconnected, hcount⟩ := h.keeps ((keepsConnection_iff E).1 hE)
      rw [modeOf_connected ht (hconnected.trans hc), modeOf_connected hs hc, hcount]
      exact ⟨rfl, rfl, h.reports⟩
  case frame =>
    obtain ⟨m', h⟩ | h := hcase.measured_or_unmeasured
    · obtain rfl : m' = m := List.singleton_inj.1 (h.measurements.symm.trans hframe)
      have hmode := modeOf_connected h.live h.connected
      have hcount := h.count
      refine ⟨hcount, fun h18 => ?_, fun h19 => ?_⟩
      · rw [hmode, h.reports, if_pos (by omega), if_neg (by omega)]
        exact ⟨rfl, rfl⟩
      · rw [hmode, h.reports, if_neg (by omega), if_pos h19]
        exact ⟨rfl, rfl⟩
    · exact absurd (h.measurements.symm.trans hframe) (List.cons_ne_nil m []).symm
  case atMostOne =>
    obtain ⟨m, h⟩ | h := hcase.measured_or_unmeasured
    · exact .inr ⟨m, h.measurements⟩
    · exact .inl h.measurements
  case linkdown =>
    rw [hE] at hcase
    rw [hcase.eq_of_linkdown hs]
    refine ⟨by simp [modeOf, hs], ?_⟩
    cases s.connected <;> rfl
  case linkup =>
    rw [hE] at hcase
    rw [hcase.eq_of_linkup hs]
    exact ⟨by simp [modeOf, hs], rfl, rfl⟩

/-- Settles O54: a report comes from a measured frame only, and only with 19 before it. -/
theorem everyReportIsTrusted : Obligations.EveryReportIsTrusted := by
  intro s t E m hstep hm
  obtain ⟨m', h⟩ | h := (stepCase_of_step hstep).measured_or_unmeasured
  · obtain ⟨b, hb, hcomplete, hvalid⟩ := h.byte
    obtain ⟨f, hf, -, -⟩ := validCo2_eq_some hvalid
    have h9 : (s.buf ++ [b]).length = 9 := congrArg List.length hf.symm
    rw [h.reports] at hm
    split at hm
    case isFalse => cases hm
    case isTrue h19 =>
      obtain rfl := List.mem_singleton.1 hm
      have hcount := h.count
      exact ⟨hcomplete.connected, hcomplete.live, by simpa using h9, h19, by omega, by rw [h.reports, if_pos h19],
        b, hb, hvalid⟩
  · rw [h.reports] at hm
    cases hm

end Sys2Proof.Machine

/-! ## The records of a step on their channels and ports (R61, R77, R81, R88) -/

namespace Sys2Proof.Machine

/-! ### The shapes of a step's records -/

/-- A measurement the ports can carry (R30). -/
structure InPortRange (m : Measurement) : Prop where
  ppm_le : m.ppm ≤ 65535
  temperature_ge : -40 ≤ m.temperatureCelsius
  temperature_le : m.temperatureCelsius ≤ 215

theorem inPortRange_of_validCo2 {bytes : List Byte} {m : Measurement} (h : validCo2 bytes = some m) :
    InPortRange m := by
  obtain ⟨f, -, -, rfl⟩ := validCo2_eq_some h
  obtain ⟨hmin, hmax⟩ := temperatureOf_range f
  exact ⟨be16_le f.d0 f.d1, hmin, hmax⟩

/-- The nine shapes of a step's records (R61), each with the kind that R88's table gives it on `tr_kind`. -/
inductive StepRecords : BitVec 3 → List Out → Prop where
  | silent : StepRecords 0#3 []
  | linkUp : StepRecords 5#3 [.linkUp]
  | linkLost : StepRecords 6#3 [.linkLost]
  | discarded (b : Byte) : StepRecords 4#3 [.discarded b]
  | fault (v : List Byte) : StepRecords 7#3 [.frameDone v, .fault 5]
  | mismatch (v : List Byte) (expected actual : Byte) :
      StepRecords 1#3 [.frameDone v, .checksumMismatch expected actual]
  | ignored (v : List Byte) (cmd : Byte) : StepRecords 3#3 [.frameDone v, .ignored cmd]
  | decoded (v : List Byte) (p : Nat) (c : Int) (n : Nat) : StepRecords 2#3 [.frameDone v, .decoded p c n]
  | reported (v : List Byte) (p : Nat) (c : Int) (n : Nat) (hm : InPortRange ⟨p, c⟩) :
      StepRecords 2#3 [.frameDone v, .decoded p c n, .report p c]

theorem StepCase.records {s t : State} {i : Instr} (h : StepCase s i t) : ∃ k, StepRecords k t.out := by
  cases h with
  | ignored | rst | start | append => exact ⟨_, .silent⟩
  | linkdown =>
    dsimp only
    split
    · exact ⟨_, .linkLost⟩
    · exact ⟨_, .silent⟩
  | linkup => exact ⟨_, .linkUp⟩
  | discard => exact ⟨_, .discarded _⟩
  | badShape => exact ⟨_, .fault _⟩
  | mismatch => exact ⟨_, .mismatch _ _ _⟩
  | unknown => exact ⟨_, .ignored _ _⟩
  | unreported => exact ⟨_, .decoded _ _ _ _⟩
  | reported _ hv => exact ⟨_, .reported _ _ _ _ (inPortRange_of_validCo2 hv)⟩

section Shapes

variable {k : BitVec 3} {out : List Out} (h : StepRecords k out)

include h

theorem StepRecords.length_extDiag_le : (extDiag out).length ≤ 1 := by
  cases h <;> simp [extDiag, channelOf]

/-! ### The report and the mismatch -/

theorem StepRecords.reports : reportsIn out = [] ∨ ∃ m, reportsIn out = [m] ∧ InPortRange m := by
  cases h with
  | reported _ _ _ _ hm => exact .inr ⟨_, rfl, hm⟩
  | silent | linkUp | linkLost | discarded | fault | mismatch | ignored | decoded => exact .inl rfl

theorem StepRecords.mismatchIn_eq_some_iff {e a : Byte} :
    mismatchIn out = some (e, a) ↔ Out.checksumMismatch e a ∈ out := by
  cases h <;> simp [mismatchIn, eq_comm]

/-- A step with a mismatch reports nothing. -/
theorem StepRecords.reportIn_or_mismatchIn : reportIn out = none ∨ mismatchIn out = none := by
  cases h with
  | reported => exact .inr rfl
  | silent | linkUp | linkLost | discarded | fault | mismatch | ignored | decoded => exact .inl rfl

/-! ### The kind of the trace record -/

theorem StepRecords.trKindOf_eq : trKindOf out = k := by
  cases h <;> rfl

theorem StepRecords.kind_of_mismatch {e a : Byte} (hmem : Out.checksumMismatch e a ∈ out) : k = 1#3 := by
  cases h <;> simp_all

theorem StepRecords.kind_none_iff : k = 0#3 ↔ ∀ o ∈ out, channelOf o ≠ .trace := by
  cases h <;> simp [channelOf]

theorem StepRecords.kind_frameDone_iff :
    k = 1#3 ↔ (∃ v, Out.frameDone v ∈ out) ∧ ∀ o ∈ out, channelOf o = .trace → ∃ v, o = Out.frameDone v := by
  cases h <;> simp [channelOf]

theorem StepRecords.kind_decoded_iff : k = 2#3 ↔ ∃ p c n, Out.decoded p c n ∈ out := by
  cases h <;> simp

theorem StepRecords.kind_ignored_iff : k = 3#3 ↔ ∃ c, Out.ignored c ∈ out := by
  cases h <;> simp

theorem StepRecords.kind_discarded_iff : k = 4#3 ↔ ∃ b, Out.discarded b ∈ out := by
  cases h <;> simp

theorem StepRecords.kind_linkUp_iff : k = 5#3 ↔ Out.linkUp ∈ out := by
  cases h <;> simp

theorem StepRecords.kind_linkLost_iff : k = 6#3 ↔ Out.linkLost ∈ out := by
  cases h <;> simp

theorem StepRecords.kind_fault_iff : k = 7#3 ↔ ∃ code, Out.fault code ∈ out := by
  cases h <;> simp

theorem StepRecords.frameDone_iff_kind : (∃ v, Out.frameDone v ∈ out) ↔ k ∈ [1#3, 2#3, 3#3, 7#3] := by
  cases h <;> simp

/-! ### The frame and the byte shown -/

theorem StepRecords.frameIn_of_mem {v : List Byte} (hmem : Out.frameDone v ∈ out) : frameIn out = some v := by
  cases h <;> simp_all [frameIn]

theorem StepRecords.traceByteIn_of_discarded {b : Byte} (hmem : Out.discarded b ∈ out) : traceByteIn out = some b := by
  cases h <;> simp_all [traceByteIn]

theorem StepRecords.traceByteIn_of_ignored {c : Byte} (hmem : Out.ignored c ∈ out) : traceByteIn out = some c := by
  cases h <;> simp_all [traceByteIn]

end Shapes

/-! ### The ports, by the record each shows -/

theorem reportIn_eq_head? (out : List Out) : reportIn out = (reportsIn out).head? := List.head?_filterMap.symm

theorem portsOf_report {cycle : Nat} {t : State} {m : Measurement} (h : reportIn t.out = some m) (hm : InPortRange m) :
    (portsOf cycle t).reportPpm.toNat = m.ppm ∧ (portsOf cycle t).reportTemp.toInt = m.temperatureCelsius := by
  obtain ⟨hp, hmin, hmax⟩ := hm
  simp only [portsOf, h]
  refine ⟨?_, ?_⟩
  · rw [BitVec.toNat_ofNat]
    omega
  · rw [BitVec.toInt_ofInt]
    exact Int.bmod_eq_of_le (by omega) (by omega)

theorem portsOf_mismatch {cycle : Nat} {t : State} {e a : Byte} (h : mismatchIn t.out = some (e, a)) :
    (portsOf cycle t).csumExpected = e ∧ (portsOf cycle t).csumActual = a := by
  simp [portsOf, h]

/-- The port shows the frame's bytes in the order of the frame vector (log entry 24). -/
theorem portsOf_frame {cycle : Nat} {t : State} {v : List Byte} (h : frameIn t.out = some v) (h9 : v.length = 9) :
    bytesOfFrameWord (portsOf cycle t).trFrame = v := by
  obtain ⟨f, rfl⟩ := exists_frame_of_length h9
  have hshown := traceFrameIn_eq_some.2 ⟨_, h, h9, rfl⟩
  simp only [portsOf, hshown]
  exact bytesOfFrameWord_natOfBytes f

theorem portsOf_byte {cycle : Nat} {t : State} {b : Byte} (h : traceByteIn t.out = some b) :
    (portsOf cycle t).trByte = b := by
  simp [portsOf, h]

/-! ### The statements -/

/-- Settles O55: the shapes of the cases of a step. -/
theorem stepOutputsHaveStatedShapes : Obligations.StepOutputsHaveStatedShapes := by
  intro s t E hstep
  obtain ⟨k, h⟩ := (stepCase_of_step hstep).records
  refine ⟨?_, h.length_extDiag_le⟩
  generalize t.out = out at h
  cases h <;> simp

/-- Settles O57: the two numbers fit their ports. -/
theorem statusPortsShowTheState : Obligations.StatusPortsShowTheState := by
  intro cycle s
  refine ⟨rfl, rfl, ready_iff s, fun hlen => ?len, fun hcount => ?count⟩
  case len => exact Nat.mod_eq_of_lt (Nat.lt_of_le_of_lt hlen (by decide))
  case count => exact Nat.mod_eq_of_lt (Nat.lt_of_le_of_lt hcount (by decide))

/-- Settles O58: a step's records have one of nine shapes, and each port shows the one record of its kind. -/
theorem pulsePortsCarryTheRecords : Obligations.PulsePortsCarryTheRecords := by
  intro cycle s t E hstep
  obtain ⟨k, h⟩ := (stepCase_of_step hstep).records
  have hkind : (portsOf cycle t).trKind = k := h.trKindOf_eq
  have hvalid : (portsOf cycle t).reportValid = (reportsIn t.out).head?.isSome :=
    congrArg Option.isSome (reportIn_eq_head? t.out)
  rw [hkind]
  refine ⟨?reportValid, fun m hm => ?report, ?csumErr, fun e a hmem => ?mismatch, ?notBoth, h.kind_none_iff,
    h.kind_frameDone_iff, h.kind_decoded_iff, h.kind_ignored_iff, h.kind_discarded_iff, h.kind_linkUp_iff,
    h.kind_linkLost_iff, h.kind_fault_iff, h.frameDone_iff_kind,
    fun v hmem h9 => portsOf_frame (h.frameIn_of_mem hmem) h9,
    fun b hmem => portsOf_byte (h.traceByteIn_of_discarded hmem),
    fun c hmem => portsOf_byte (h.traceByteIn_of_ignored hmem)⟩
  case reportValid => rw [hvalid, List.isSome_head?]
  case report =>
    obtain hnone | ⟨m', hone, hrange⟩ := h.reports
    · rw [hnone] at hm
      cases hm
    · rw [hone] at hm
      obtain rfl := List.mem_singleton.1 hm
      exact portsOf_report (by rw [reportIn_eq_head?, hone]; rfl) hrange
  case csumErr =>
    refine Option.isSome_iff_exists.trans ⟨?_, ?_⟩
    · rintro ⟨⟨e, a⟩, hp⟩
      exact ⟨e, a, h.mismatchIn_eq_some_iff.1 hp⟩
    · rintro ⟨e, a, hmem⟩
      exact ⟨_, h.mismatchIn_eq_some_iff.2 hmem⟩
  case mismatch =>
    obtain ⟨hexpected, hactual⟩ := portsOf_mismatch (cycle := cycle) (h.mismatchIn_eq_some_iff.2 hmem)
    exact ⟨hexpected, hactual, h.kind_of_mismatch hmem⟩
  case notBoth =>
    obtain hnone | hnone := h.reportIn_or_mismatchIn <;> simp [portsOf, hnone]

end Sys2Proof.Machine

/-! ## The counter's width (R158) -/

namespace Sys2Proof.Machine

theorem extDiag_append (u v : List Out) : extDiag (u ++ v) = extDiag u ++ extDiag v := List.filter_append u v

/-- The block with a `w`-bit saturating counter beside the one with an unbounded counter: the same but for the count,
which is cut off at the saturation point, and for the trace records, which show it. -/
structure WidthRelated (w : Nat) (s t : State) : Prop where
  connected : s.connected = t.connected
  buf : s.buf = t.buf
  live : s.fault = t.fault
  count : s.count = min t.count (2 ^ w - 1)
  out : extDiag s.out = extDiag t.out

section Widths

variable {w : Nat} {s t : State} (h : WidthRelated w s t)

include h

theorem WidthRelated.emit (o : Out) : WidthRelated w (emit o s) (emit o t) :=
  ⟨h.connected, h.buf, h.live, h.count, by
    rw [emit_out, emit_out, extDiag_append, extDiag_append, h.out]⟩

/-- A saturated count is 20 or more exactly when the unbounded one is, as 5 bits hold 31. -/
theorem WidthRelated.stabilize (hw : 5 ≤ w) (m : Measurement) :
    WidthRelated w (stabilize (.bits w) m s) (stabilize .unbounded m t) := by
  have hmax : 2 ^ 5 ≤ 2 ^ w := Nat.pow_le_pow_right (by decide) hw
  have hcount : bumpCount (.bits w) s.count = min (t.count + 1) (2 ^ w - 1) := by
    rw [bumpCount, h.count]
    omega
  have hreport : Config.warmupThreshold ≤ bumpCount (.bits w) s.count ↔
      Config.warmupThreshold ≤ bumpCount .unbounded t.count := by
    rw [hcount, bumpCount, le_min_iff, and_iff_left]
    exact Nat.le_sub_of_add_le (le_trans (by decide) hmax)
  rw [stabilize_eq, stabilize_eq]
  refine ⟨h.connected, h.buf, h.live, hcount, ?_⟩
  simp only [extDiag_append, h.out, hreport]
  rfl

theorem WidthRelated.decodeFrame (hw : 5 ≤ w) (bytes : List Byte) :
    WidthRelated w (decodeFrame (.bits w) bytes s) (decodeFrame .unbounded bytes t) := by
  by_cases hshape : bytes.length ≠ 9 ∨ bytes.head? ≠ some Config.startMarker
  · rw [decodeFrame_of_bad_shape _ hshape, decodeFrame_of_bad_shape _ hshape]
    have hfaulted : WidthRelated w { s with fault := true } { t with fault := true } :=
      ⟨h.connected, h.buf, rfl, h.count, h.out⟩
    exact hfaulted.emit (.fault 5)
  · obtain ⟨h9, hstart⟩ := not_or.1 hshape
    obtain ⟨f, rfl⟩ := exists_frame_of_length (not_not.1 h9)
    have hstart' : f.start = Config.startMarker := Option.some.inj (not_not.1 hstart)
    rw [decodeFrame_of_start _ hstart', decodeFrame_of_start _ hstart', decodeChecked_eq, decodeChecked_eq]
    split_ifs
    · exact h.stabilize hw _
    · exact h.emit _
    · exact h.emit _

theorem WidthRelated.rxByte (hw : 5 ≤ w) (b : Byte) :
    WidthRelated w (rxByte (.bits w) b s) (rxByte .unbounded b t) := by
  obtain ⟨hconnected, hbuf, hlive, hcount, hout⟩ := id h
  simp only [Machine.rxByte, State.len, hconnected, hbuf]
  split_ifs
  · exact h
  · exact ⟨hconnected, rfl, hlive, hcount, hout⟩
  · exact h.emit _
  · exact ⟨hconnected, by rw [appendByte, appendByte, hbuf], hlive, hcount, hout⟩
  · rw [completeFrame_eq, completeFrame_eq, hbuf]
    have hcleared : WidthRelated w { s with buf := [] } { t with buf := [] } :=
      ⟨hconnected, rfl, hlive, hcount, hout⟩
    exact (hcleared.emit _).decodeFrame hw _

theorem WidthRelated.whenLive {f g : State → State} (hfg : WidthRelated w (f s) (g t)) :
    WidthRelated w (whenLive f s) (whenLive g t) := by
  unfold Machine.whenLive
  rw [h.live]
  split_ifs
  · exact h
  · exact hfg

theorem WidthRelated.linkDown : WidthRelated w (linkDown s) (linkDown t) := by
  rw [linkDown_eq_dropConnection, linkDown_eq_dropConnection, h.connected]
  split_ifs
  · exact ⟨rfl, rfl, h.live, (Nat.zero_min _).symm, (h.emit .linkLost).out⟩
  · exact ⟨rfl, rfl, h.live, (Nat.zero_min _).symm, h.out⟩

/-- Every operation keeps the two blocks related. -/
theorem WidthRelated.performAt (hw : 5 ≤ w) (i : Instr) :
    WidthRelated w (performAt (.bits w) i s) (performAt .unbounded i t) := by
  cases i with
  | rst => exact ⟨rfl, rfl, rfl, (Nat.zero_min _).symm, h.out⟩
  | linkdown => exact h.whenLive h.linkDown
  | linkup => exact h.whenLive ⟨rfl, rfl, h.live, (Nat.zero_min _).symm, (h.emit .linkUp).out⟩
  | rxbyte b => exact h.whenLive (h.rxByte hw b)
  | nop => exact h
  | readCo2 | unknownCmd | pollReadCo2 => exact h.whenLive (h.decodeFrame hw _)

theorem WidthRelated.runAt (hw : 5 ≤ w) (evs : List EventWord) :
    extDiag (runAt (.bits w) evs s).2 = extDiag (runAt .unbounded evs t).2 := by
  induction evs generalizing s t with
  | nil => rfl
  | cons E evs ih =>
    have hforget : WidthRelated w { s with out := [] } { t with out := [] } :=
      ⟨h.connected, h.buf, h.live, h.count, rfl⟩
    have hstep := hforget.performAt hw (decodeEvent E)
    have hrest := ih hstep
    rw [Machine.runAt, Machine.runAt, extDiag_append, extDiag_append, hstep.out, hrest]

end Widths

/-- Settles O45: the reset states are related, and a run keeps the outputs on `ext` and `diag` equal. -/
theorem counterWidthIsInvisible : Obligations.CounterWidthIsInvisible :=
  fun _ evs hw => WidthRelated.runAt (s := State.reset) (t := State.reset)
    ⟨rfl, rfl, rfl, (Nat.zero_min _).symm, rfl⟩ hw evs

end Sys2Proof.Machine
